-- ==== Sys2Proof/Word.lean ====
section
/-! DEFINITION. The widths the spec gives its values (00_scope.md R8, 30_encoding.md R80, R90). -/

namespace Sys2Proof

/-- An 8-bit value: a command byte, a transport byte, a shadow register, a character code. -/
abbrev Byte := BitVec 8

/-- Half of a byte, the unit of one 4-bit transfer (R12, R53). -/
abbrev Nibble := BitVec 4

/-- A 7-bit address of the controller's DDRAM space (R50). -/
abbrev DdramAddr := BitVec 7

/-- A request word `op[23:16] a[15:8] b[7:0]` (R90). -/
abbrev RequestWord := BitVec 24

end Sys2Proof
end

