-- ==== Sys2Proof/Config.lean ====
section
/-! DEFINITION. The configuration of one instance, every parameter of R5 (R28), and the free values: what the
spec leaves open and no proof can see. The values that R5 gives are in Machine/Params.lean. -/

namespace Sys2Proof

/-- The masks of the transport byte: `RS`, `RW`, `EN`, `BL` (R5, R80). -/
structure Pins where
  /-- `RS`, register select: 0 command, 1 data. -/
  rs : Byte
  /-- `RW`: 1 read from the controller. -/
  rw : Byte
  /-- `EN`, the enable strobe. -/
  en : Byte
  /-- `BL`, the backlight. -/
  bl : Byte
  deriving DecidableEq, Repr

/-- `ROW_BASE[0..3]`, the base address of each row (R5, R27): "constant per controller family". -/
structure RowBases where
  row0 : DdramAddr
  row1 : DdramAddr
  row2 : DdramAddr
  row3 : DdramAddr
  deriving DecidableEq, Repr

/-- The command codes, flag bits and shadow defaults of a controller family: "parameters of the model ... so
that a different family can be configured without touching a rule" (R85; R5, D11, D13). -/
structure Family where
  /-- `CMD_CLEAR`. -/
  clear : Byte
  /-- `CMD_HOME`. -/
  home : Byte
  /-- `CMD_ENTRY_MODE`, the EntryModeSet prefix. -/
  entryMode : Byte
  /-- `EM_INC`, the increment flag of EntryModeSet. -/
  emInc : Byte
  /-- `EM_SHIFT`, the shift flag of EntryModeSet. -/
  emShift : Byte
  /-- `CMD_DISPLAY_CTRL`, the DisplayControl prefix. -/
  displayCtrl : Byte
  /-- `DC_DISPLAY`, the display-on flag of DisplayControl. -/
  dcDisplay : Byte
  /-- `DC_CURSOR`, the cursor flag of DisplayControl. -/
  dcCursor : Byte
  /-- `DC_BLINK`, the blink flag of DisplayControl. -/
  dcBlink : Byte
  /-- `CMD_FUNCTION_SET`, the FunctionSet prefix. -/
  functionSet : Byte
  /-- `FS_8BIT`, the 8-bit interface flag of FunctionSet, never set (R29). -/
  fs8Bit : Byte
  /-- `FS_2LINE`, the two-line flag of FunctionSet. -/
  fs2Line : Byte
  /-- `FS_5x10`, the 5x10 font flag of FunctionSet, never set (R29). -/
  fs5x10 : Byte
  /-- `CMD_SET_DDRAM`, the SetDDRAMAddress prefix (R86). -/
  setDdram : Byte
  /-- `EM_DEFAULT`, the reset value of `EM`. -/
  emDefault : Byte
  /-- `DC_DEFAULT`, the reset value of `DC`. -/
  dcDefault : Byte
  deriving DecidableEq, Repr

/-- The waits of INIT in microseconds and its handshake nibbles (R5, R131, R132, D10). -/
structure InitParams where
  /-- `T_POWER`, the power-up wait. -/
  tPower : Nat
  /-- `T_INIT1`, after the first handshake nibble. -/
  tInit1 : Nat
  /-- `T_INIT2`, after the second. -/
  tInit2 : Nat
  /-- `T_INIT3`, after the third. -/
  tInit3 : Nat
  /-- `T_INIT4`, after the fourth. -/
  tInit4 : Nat
  /-- `INIT_NIBBLES[0]`. -/
  nibble1 : Nibble
  /-- `INIT_NIBBLES[1]`. -/
  nibble2 : Nibble
  /-- `INIT_NIBBLES[2]`. -/
  nibble3 : Nibble
  /-- `INIT_NIBBLES[3]`, after which the controller takes nibble pairs. -/
  nibble4 : Nibble
  deriving DecidableEq, Repr

/-- The parameters of R5, "fixed when an instance is made". They are held in registers that no operation
writes (R28). The last four groups are those whose legal value R5 calls "fixed" (log 7). -/
structure Config where
  /-- `ROWS`; valid 1..4 (R6). An integer, so that an invalid value can be written down. -/
  rows : Int
  /-- `COLS`; valid 1..40 (R6). -/
  cols : Int
  /-- `BUS_ID`; valid when not negative (R6). Handed to the transport, read by no rule (R28). -/
  busId : Int
  /-- `DEV_ADDR`; valid when positive (R6). Handed to the transport, read by no rule (R28). -/
  devAddr : Int
  /-- `SIM`: the stub transport of R68 stands in for the real bus. -/
  sim : Bool
  /-- `MOCK_READBACK`: the status byte the stub answers (R68); OPEN in the spec (D23). -/
  mockReadback : Byte
  /-- `commandDelay` in microseconds (R112). -/
  commandDelay : Nat
  /-- `dataDelay` in microseconds (R112). -/
  dataDelay : Nat
  /-- `T_EH`: how long E is held high (R110). -/
  tEH : Nat
  /-- `T_EL`: how long E stays low before anything else touches the pins (R110). -/
  tEL : Nat
  /-- The masks of the transport byte. -/
  pins : Pins
  /-- The row-base ROM. -/
  rowBases : RowBases
  /-- The command codes, flag bits and shadow defaults. -/
  family : Family
  /-- The waits and nibbles of INIT. -/
  init : InitParams
  deriving DecidableEq, Repr

/-- FREE VALUE (log 3): the byte the n-th `TRead` of the real transport answers where the oracle list of
State gives none. "The value is any 8-bit value; no rule constrains it" (R52). -/
opaque Config.freeRead : Nat → Byte

/-- FREE VALUE (log 6): the `MOCK_READBACK` of the instance at reset. "not in the source and stays an open
parameter" (R68). -/
opaque Config.freeMockReadback : Byte

/-- FREE VALUE (log 22): the address of a position whose sum `ROW_BASE[r] + c` is above 0x7F. R7 and R141 say that
no sum is, which holds of the row bases of R5; of others they say nothing. -/
opaque Config.freeAddress : RowBases → Nat → Nat → DdramAddr

/-- FREE VALUE (log 22): what fixes the row of an address below every base. R146 says that row 0 with base 0x00
excludes it, which holds of the row bases of R5; of others it says nothing. -/
opaque Config.freeRow : Config → DdramAddr → Nat

end Sys2Proof
end

