-- ==== Sys2Proof/Machine/Params.lean ====
section
/-! DEFINITION. The values of R5 for the parameters whose legal value is "fixed", the validity check of R6, the
row-base ROM, the FunctionSet byte of R29 and the configuration of the instance at reset. -/

namespace Sys2Proof.Machine

/-! ### The values R5 gives (log 7) -/

/-- The masks of the transport byte (R80). -/
def standardPins : Pins where
  rs := 0x01
  rw := 0x02
  en := 0x04
  bl := 0x08

/-- The row bases (R27). -/
def standardRowBases : RowBases where
  row0 := 0x00
  row1 := 0x40
  row2 := 0x14
  row3 := 0x54

/-- The command codes and flag bits (R85) and the shadow defaults (R37). All but `setDdram` are from general
knowledge (G2, G3, G11; log 17). -/
def standardFamily : Family where
  clear := 0x01
  home := 0x02
  entryMode := 0x04
  emInc := 0x02
  emShift := 0x01
  displayCtrl := 0x08
  dcDisplay := 0x04
  dcCursor := 0x02
  dcBlink := 0x01
  functionSet := 0x20
  fs8Bit := 0x10
  fs2Line := 0x08
  fs5x10 := 0x04
  setDdram := 0x80
  emDefault := 0x06
  dcDefault := 0x0C

/-- The waits and nibbles of INIT (R131, R132, R234; G4). -/
def standardInit : InitParams where
  tPower := 40000
  tInit1 := 4100
  tInit2 := 100
  tInit3 := 100
  tInit4 := 100
  nibble1 := 0x3
  nibble2 := 0x3
  nibble3 := 0x3
  nibble4 := 0x2

/-! ### Functions of the configuration -/

/-- `ROW_BASE[i]`. Only indices below `ROWS` are ever used (R27), so at most 3; the last arm is never
reached with a valid configuration (log 19). -/
def rowBase (t : RowBases) : Nat → DdramAddr
  | 0 => t.row0
  | 1 => t.row1
  | 2 => t.row2
  | 3 => t.row3
  | _ => 0x00

/-- Validity of a configuration (R6). -/
def configValid (c : Config) : Bool :=
  decide (1 ≤ c.rows) && decide (c.rows ≤ 4) && decide (1 ≤ c.cols) && decide (c.cols ≤ 40) &&
    decide (0 ≤ c.busId) && decide (0 < c.devAddr)

/-- `FS`, a constant of the configuration: 4-bit, 5x8 font, line count from `ROWS > 1` (R29). -/
def functionSetByte (c : Config) : Byte :=
  c.family.functionSet ||| (if 1 < c.rows then c.family.fs2Line else 0)

/-- The configuration of the instance at reset: the defaults of R5 where it gives one. DESIGN CHOICE
(log 5): 4 rows, 20 columns, bus 0, address 1, which "must be given" and have no default. The mock value
is free (log 6). -/
def configAtReset : Config where
  rows := 4
  cols := 20
  busId := 0
  devAddr := 1
  sim := false
  mockReadback := Config.freeMockReadback
  commandDelay := 1550
  dataDelay := 50
  tEH := 1
  tEL := 1
  pins := standardPins
  rowBases := standardRowBases
  family := standardFamily
  init := standardInit

end Sys2Proof.Machine
end

