-- ==== Sys2Proof/Syntax.lean ====
section
/-! DEFINITION. The instructions: one constructor per row of spec/opcode_table.json, and the three kinds
of encoded word the rows have. -/

namespace Sys2Proof

/-- One constructor per row of the opcode table. The first twenty are requests (R92, R95), which arrive
on the request port. The next six are the command bytes the block emits with RS = 0 as two nibbles
(R85), the last three the transport bytes it writes (R81 to R83): "not a request", internal to an
operation. Request fields that an operation ignores (R91) are no part of its constructor. -/
inductive Instr where
  /-- 0x00 INIT (R131). -/
  | init
  /-- 0x01 SEND_CMD (R114). -/
  | sendCmd (value : Byte)
  /-- 0x02 SEND_DATA (R115). -/
  | sendData (value : Byte)
  /-- 0x03 CLEAR (R116). -/
  | clear
  /-- 0x04 HOME (R117). -/
  | home
  /-- 0x05 SET_CURSOR (R142); both operands in two's complement (R93). -/
  | setCursor (row col : Byte)
  /-- 0x06 GET_ADDR (R144). -/
  | getAddr
  /-- 0x07 GET_LINE (R147). -/
  | getLine
  /-- 0x08 IS_BUSY (R145). -/
  | isBusy
  /-- 0x09 CURSOR_ON (R158). -/
  | cursorOn
  /-- 0x0A CURSOR_OFF (R159). -/
  | cursorOff
  /-- 0x0B BLINK_ON (R160). -/
  | blinkOn
  /-- 0x0C BLINK_OFF (R161). -/
  | blinkOff
  /-- 0x0D DISPLAY_ON (R162). -/
  | displayOn
  /-- 0x0E DISPLAY_OFF (R163). -/
  | displayOff
  /-- 0x0F SET_BACKLIGHT (R181); the operand is `{a, b}` in two's complement (R93). -/
  | setBacklight (value : BitVec 16)
  /-- 0x10 NEXT_LINE (R170). -/
  | nextLine
  /-- 0x11 FLAG_SET (R156); any `reg` and `mask` may arrive, Admit answers the illegal ones. -/
  | flagSet (reg mask : Byte)
  /-- 0x12 FLAG_CLR (R157). -/
  | flagClr (reg mask : Byte)
  /-- 0x13 to 0xFF (R95). -/
  | reserved (op : Byte)
  /-- `00000001` ClearDisplay (R85). -/
  | cmdClearDisplay
  /-- `00000010` ReturnHome (R85). -/
  | cmdReturnHome
  /-- `000001IS` EntryModeSet (R85). -/
  | cmdEntryModeSet (inc shift : Bool)
  /-- `00001DCB` DisplayControl (R85). -/
  | cmdDisplayControl (display cursor blink : Bool)
  /-- `001LNF00` FunctionSet (R85). -/
  | cmdFunctionSet (eightBit twoLine font5x10 : Bool)
  /-- `1aaaaaaa` SetDDRAMAddress (R86). -/
  | cmdSetDDRAMAddress (addr : DdramAddr)
  /-- `nnnnbe0r`: the write-direction transport byte, E low or high (R81). -/
  | tbWrite (nibble : Nibble) (backlight enable dataSelect : Bool)
  /-- `1111be10`: the read-direction transport byte, E low or high (R82). -/
  | tbReadMode (backlight enable : Bool)
  /-- `0000b000`: the backlight-only transport byte (R83). -/
  | tbBacklightOnly (backlight : Bool)
  deriving DecidableEq, Repr

/-- An encoded instruction, by the three formats of the table (REQ24, CMD8, TB8). A byte alone does not
say which of the two 8-bit formats it is of: that is decided by where in the block it stands. -/
inductive Code where
  /-- A word on the request port (R90). -/
  | request (w : RequestWord)
  /-- A command byte about to be sent as two nibbles (R85). -/
  | command (b : Byte)
  /-- A transport byte about to be written (R80). -/
  | transport (b : Byte)
  deriving DecidableEq, Repr

/-- A piece of a running operation's own traffic: one of the two 8-bit formats. -/
inductive Traffic where
  /-- A command byte about to be sent as two nibbles (R85). -/
  | command (b : Byte)
  /-- A transport byte about to be written (R80). -/
  | transport (b : Byte)
  deriving DecidableEq, Repr

/-- Traffic as a code. -/
def Traffic.code : Traffic → Code
  | .command b => .command b
  | .transport b => .transport b

end Sys2Proof
end

