-- ==== Sys2Proof/Machine/State.lean ====
section
/-! DEFINITION. The state of one instance (R20, R28, R31), the outside world it meets as plain data (R33,
R69, R90), and the ways the machine stops. -/

namespace Sys2Proof.Machine

/-- The lifecycle (R21, R130). -/
inductive Phase where
  | unpowered | resetPending | functionLocked | ready
  deriving DecidableEq, Repr

/-- The status of a response (R94, R185). -/
inductive Status where
  | ok | configError | transportFailure | notReady | illegalRequest | faulted
  deriving DecidableEq, Repr

/-- What the block answers to a request (R94). -/
structure Response where
  status : Status
  value : Byte
  deriving DecidableEq, Repr

/-- One event of the trace (R10, R69). -/
inductive Event where
  /-- `W(b)`: a write of `b` the transport answered ok. -/
  | write (b : Byte)
  /-- `Wfail(b)`. -/
  | writeFail (b : Byte)
  /-- `R(v)`: a read that answered `v`. -/
  | read (v : Byte)
  /-- `Rfail`. -/
  | readFail
  /-- `D(t)`: a wait of at least `t` microseconds. -/
  | delay (t : Nat)
  deriving DecidableEq, Repr

/-- One answer of the transport (R51, R52): to a write it is ok or fail, to a read a byte or fail. -/
inductive Answer where
  /-- The access succeeds; a read gets `v`, a write does not look at it. -/
  | answered (v : Byte)
  /-- The access fails. -/
  | fail
  deriving DecidableEq, Repr

/-- The state. The first six fields after the configuration are "the complete state of one instance"
(R20); `todo` is the list of R31; the rest is what stands outside the block, held as plain data. -/
structure State where
  /-- The configuration registers, which no operation writes (R28). -/
  cfg : Config
  /-- The lifecycle register (R21). -/
  phase : Phase
  /-- `EM`, the entry-mode shadow: the whole EntryModeSet byte (R22). -/
  em : Byte
  /-- `DC`, the display-control shadow: the whole DisplayControl byte (R23). -/
  dc : Byte
  /-- The backlight (R24). -/
  bl : Bool
  /-- A transport failure has happened (R25). -/
  fault : Bool
  /-- The last byte a TWrite delivered (R26). -/
  latch : Byte
  /-- What a running operation has still to emit: "empty between operations and at reset" (R31). Here
  the command and transport bytes of the opcode table stand (log 10). -/
  todo : List Traffic
  /-- Requests presented and not yet accepted, oldest first (R113, D34; log 8). -/
  requests : List RequestWord
  /-- The transport's answers to the accesses to come, one each (R33; log 2). -/
  answers : List Answer
  /-- How many reads the real transport has been asked for: the argument of the free read (log 3). -/
  draws : Nat
  /-- Every event so far, oldest first (R62, R69; log 9). -/
  trace : List Event
  /-- Every response so far, oldest first (R94; log 9). -/
  responses : List Response
  deriving DecidableEq, Repr

/-- The machine stops. -/
inductive Fault where
  /-- Raised by `step` alone, when the head of `todo` is a byte of none of the table's forms. Safe: the
  block never sends such a command nor writes such a byte (R84, R85), and the spec gives it no effect
  inside the block (log 13). -/
  | notAFormOfTheBlock (c : Code)
  deriving DecidableEq, Repr

/-- No meaning for the instruction. -/
inductive Refusal where
  /-- Raised by an arm of `exec` whose instruction has no meaning yet. Safe. No arm is left so. -/
  | notModelled (mnemonic : String)
  deriving DecidableEq, Repr

/-- A new instance with configuration `c`: what reset is (R220), with the values of R37. `latch` is
unspecified by the spec and 0 here: DESIGN CHOICE (log 4). -/
def State.newInstance (c : Config) : State where
  cfg := c
  phase := .unpowered
  em := c.family.emDefault
  dc := c.family.dcDefault
  bl := false
  fault := false
  latch := 0x00
  todo := []
  requests := []
  answers := []
  draws := 0
  trace := []
  responses := []

/-- The machine right after reset (R37, R221), with the configuration of log 5. -/
def State.reset : State := State.newInstance configAtReset

end Sys2Proof.Machine
end

