-- ==== Sys2Proof/Machine/Operands.lean ====
section
/-! DEFINITION. Operand forms: how request operands are read (R93), the transport bytes the block forms
(R81 to R83), nibbles and the status byte (R53 to R55, R88, R89), and the cursor address mapper, pure
functions of their arguments and the configuration (R140, R141, R146, R150). -/

namespace Sys2Proof.Machine

/-! ### Nibbles (R53, R89) -/

/-- `v[7:4]`, sent first. -/
def hiNibble (v : Byte) : Nibble := v.extractLsb' 4 4

/-- `v[3:0]`, sent second. -/
def loNibble (v : Byte) : Nibble := v.extractLsb' 0 4

/-- A nibble in bits 7:4 of a transport byte: `n << 4` (R54). -/
def nibbleBits (n : Nibble) : Byte := n.setWidth 8 <<< 4

/-! ### Transport bytes -/

/-- What RS selects: `registerSelect ∈ {COMMAND, DATA}` (R81). -/
inductive RegisterSelect where
  | command | data
  deriving DecidableEq, Repr

/-- The RS bit of a transport byte (R80, R81). -/
def rsBit (p : Pins) : RegisterSelect → Byte
  | .command => 0
  | .data => p.rs

/-- The backlight bit of a transport byte: `bl << 3`, the mask `BL` when the light is on (R80; log 7). -/
def blBit (p : Pins) (bl : Bool) : Byte := if bl then p.bl else 0

/-- `WB(n, rs) = (n << 4) | (bl << 3) | rs`, E and R/W low (R81). -/
def writeByte (p : Pins) (n : Nibble) (bl : Bool) (rs : RegisterSelect) : Byte :=
  nibbleBits n ||| blBit p bl ||| rsBit p rs

/-- `RB = 0xF0 | (bl << 3) | RW`, E low (R82). -/
def readModeByte (p : Pins) (bl : Bool) : Byte := 0xF0 ||| blBit p bl ||| p.rw

/-- `IB = bl << 3` (R83). -/
def backlightByte (p : Pins) (bl : Bool) : Byte := blBit p bl

/-- `CMD_SET_DDRAM | address` (R86, R142). -/
def setDdramByte (f : Family) (a : DdramAddr) : Byte := f.setDdram ||| a.setWidth 8

/-! ### The status byte (R55, R88) -/

/-- `(n0 & 0xF0) | (n1 >> 4)`, of the two read bytes in order (R55, R143). -/
def assembleStatus (n0 n1 : Byte) : Byte := (n0 &&& 0xF0) ||| (n1 >>> 4)

/-- Bit 7, the busy flag (R88). -/
def statusBusy (s : Byte) : Bool := s.getLsbD 7

/-- Bits 6:0, the current address (R88). -/
def statusAddr (s : Byte) : DdramAddr := s.extractLsb' 0 7

/-! ### Request operands (R93) -/

/-- Which shadow a flag request names (R93, R155). -/
inductive FlagReg where
  | entry | display
  deriving DecidableEq, Repr

/-- `reg`: 0 is ENTRY, 1 is DISPLAY. Read only once Admit has found `reg` legal. -/
def flagReg (reg : Byte) : FlagReg := if reg = 0 then .entry else .display

/-- The flags of a shadow that a request may name: with the values of R5 a subset of 0x03 for ENTRY, of 0x07 for
DISPLAY (R93, R156; log 7). -/
def legalMask (f : Family) : FlagReg → Byte
  | .entry => f.emInc ||| f.emShift
  | .display => f.dcDisplay ||| f.dcCursor ||| f.dcBlink

/-- FLAG_SET and FLAG_CLR are illegal with `reg > 1` or a `mask` bit outside the legal set (R95, R156). -/
def flagOperandsLegal (f : Family) (reg mask : Byte) : Bool :=
  decide (reg ≤ 1) && decide (mask &&& ~~~ legalMask f (flagReg reg) = 0)

/-- A boolean in the response value, 0 or 1 (R94). -/
def boolValue (c : Bool) : Byte := if c then 1 else 0

/-! ### The cursor address mapper -/

/-- `clamp(x, lo, hi)` (R8). -/
def clamp (x lo hi : Int) : Int := if x < lo then lo else if hi < x then hi else x

/-- `Resolve(row, col)`: each saturates at both ends, independently (R140). With a valid configuration
both results are natural numbers below `ROWS` and `COLS`. -/
def resolve (c : Config) (row col : Int) : Nat × Nat :=
  ((clamp row 0 (c.rows - 1)).toNat, (clamp col 0 (c.cols - 1)).toNat)

/-- `AddrOf(r, c) = ROW_BASE[r] + c`, an ordinary integer sum (R141), which fits in 7 bits with the row bases of
R5 (R7). DESIGN CHOICE (log 22): with other row bases a sum above 0x7F has a free value. -/
def addrOf (t : RowBases) (r c : Nat) : DdramAddr :=
  let sum := (rowBase t r).toNat + c
  if sum ≤ 0x7F then BitVec.ofNat 7 sum else Config.freeAddress t r c

/-- A pair put in its place in a list of pairs in order of descending base, before pairs of the same base. -/
def insertByBase (p : DdramAddr × Nat) : List (DdramAddr × Nat) → List (DdramAddr × Nat)
  | [] => [p]
  | q :: rest => if q.1 ≤ p.1 then p :: q :: rest else q :: insertByBase p rest

/-- The pairs `(ROW_BASE[i], i)` with `i < ROWS`, in order of descending base (R146). DESIGN CHOICE (log 22): with
row bases other than those of R5, two rows of one base stand in order of their numbers. -/
def descendingBases (c : Config) : List (DdramAddr × Nat) :=
  ((List.range c.rows.toNat).map fun i => (rowBase c.rowBases i, i)).foldr insertByBase []

/-- `RowOf(addr)`: the row of the first of these pairs whose base is at most `addr` (R146). Row 0 with base 0x00
always qualifies with the row bases of R27. DESIGN CHOICE (log 22): with others, where none qualifies, the row is
free, below ROWS. -/
def rowOf (c : Config) (addr : DdramAddr) : Nat :=
  match (descendingBases c).find? fun p => decide (p.1 ≤ addr) with
  | some p => p.2
  | none => Config.freeRow c addr % c.rows.toNat

/-- `(r + 1) mod ROWS` (R170). -/
def nextRow (c : Config) (r : Nat) : Nat := (r + 1) % c.rows.toNat

/-! ### Encodings no operation exposes -/

/-- The 2-bit encoding of `phase` (R21). -/
def Phase.code : Phase → BitVec 2
  | .unpowered => 0
  | .resetPending => 1
  | .functionLocked => 2
  | .ready => 3

/-- The 3-bit status of a response (R94). -/
def Status.code : Status → BitVec 3
  | .ok => 0
  | .configError => 1
  | .transportFailure => 2
  | .notReady => 3
  | .illegalRequest => 4
  | .faulted => 5

end Sys2Proof.Machine
end

