-- ==== Sys2Proof/Machine/Flags.lean ====
section
/-! DEFINITION. The flags (R34) and every computation on them: set and clear of masked bits of a shadow
(R155) and the fields a shadow's byte holds (R22, R23). -/

namespace Sys2Proof.Machine

/-- The masked bits set or cleared, the others kept: `v | mask` or `v & ~mask` (R155). -/
def maskedUpdate (v mask : Byte) (set : Bool) : Byte :=
  if set then v ||| mask else v &&& ~~~ mask

/-- The shadow a flag request names. -/
def shadowOf (s : State) : FlagReg → Byte
  | .entry => s.em
  | .display => s.dc

/-- Writing one shadow; the other is not touched (R155). -/
def setShadow (reg : FlagReg) (v : Byte) (s : State) : State :=
  match reg with
  | .entry => { s with em := v }
  | .display => { s with dc := v }

/-- `EM_INC` (R22). -/
def State.incFlag (s : State) : Bool := s.em &&& s.cfg.family.emInc != 0
/-- `EM_SHIFT` (R22). -/
def State.shiftFlag (s : State) : Bool := s.em &&& s.cfg.family.emShift != 0
/-- `DC_DISPLAY` (R23). -/
def State.displayFlag (s : State) : Bool := s.dc &&& s.cfg.family.dcDisplay != 0
/-- `DC_CURSOR` (R23). -/
def State.cursorFlag (s : State) : Bool := s.dc &&& s.cfg.family.dcCursor != 0
/-- `DC_BLINK` (R23). -/
def State.blinkFlag (s : State) : Bool := s.dc &&& s.cfg.family.dcBlink != 0

/-- `value > 0`, as a signed 16-bit number (R181, D32). -/
def backlightOn (value : BitVec 16) : Bool := decide (0 < value.toInt)

end Sys2Proof.Machine
end

