-- ==== Sys2Proof/Machine/Ops.lean ====
section
/-! DEFINITION. The operations every meaning is built of: the two checked accesses (R51, R52), the wait
(R10), the procedures of the sequencer (R110 to R112), the status readback (R143), the shadow and
backlight procedures (R155, R180), the admission check (R193), and what a failing access and a response
do (R94, R194). -/

namespace Sys2Proof.Machine

/-! ### How a procedure ends -/

/-- A procedure runs to its end or is cut at the first failing access (R10 `raise`, R194). In both cases
everything it did before stands. -/
inductive Run (α : Type) where
  /-- It ran to its end and returns `a`. -/
  | done (a : α) (s : State)
  /-- A TransportFailure was raised. -/
  | failed (s : State)

/-- What follows a procedure happens only if it ran to its end. -/
def Run.andThen {α β : Type} (r : Run α) (k : α → State → Run β) : Run β :=
  match r with
  | .done a s => k a s
  | .failed s => .failed s

/-- Procedures one after the other: the lines of a pseudocode block. -/
def block : List (State → Run Unit) → State → Run Unit
  | [], s => .done () s
  | p :: ps, s => (p s).andThen fun _ => block ps

/-- A block that ends with `return v`. -/
def returning (p : State → Run Unit) (v : Byte) (s : State) : Run Byte :=
  (p s).andThen fun _ s => .done v s

/-! ### The transport -/

/-- One event at the end of the trace (R69). -/
def emit (e : Event) (s : State) : State := { s with trace := s.trace ++ [e] }

/-- Which of the two reads of a status read (R68, R143). -/
inductive StatusHalf where
  | first | second
  deriving DecidableEq, Repr

/-- What the stub transport answers to a read (R68). -/
def stubRead (c : Config) : StatusHalf → Byte
  | .first => c.mockReadback &&& 0xF0
  | .second => (c.mockReadback <<< 4) &&& 0xF0

/-- Whether a TWrite is answered ok. In simulation it always is (R68). Else the oracle says; where the
list of answers has run out the answer is ok ("assumed reliable", log 2). -/
def answerWrite (s : State) : Bool × State :=
  if s.cfg.sim then (true, s)
  else match s.answers with
    | [] => (true, s)
    | .answered _ :: rest => (true, { s with answers := rest })
    | .fail :: rest => (false, { s with answers := rest })

/-- What a TRead answers, `none` for fail. In simulation the stub's value (R68). Else the oracle says;
where the list has run out the byte is a free value (R52, U9, log 3). -/
def answerRead (half : StatusHalf) (s : State) : Option Byte × State :=
  if s.cfg.sim then (some (stubRead s.cfg half), s)
  else match s.answers with
    | [] => (some (Config.freeRead s.draws), { s with draws := s.draws + 1 })
    | .answered v :: rest => (some v, { s with answers := rest, draws := s.draws + 1 })
    | .fail :: rest => (none, { s with answers := rest, draws := s.draws + 1 })

/-- TAKING A TRANSPORT FAILURE, the one exception of a running operation: the failing access is the last
event, `fault <- 1`, nothing else changes and nothing more happens (R51, R52, R194). The response is
`operation`'s. There is no return from it (R195). -/
def transportFailure (e : Event) (s : State) : State := { emit e s with fault := true }

/-- `TW(b)`, the checked write (R51). -/
def tw (b : Byte) (s : State) : Run Unit :=
  match answerWrite s with
  | (true, s) => .done () { emit (.write b) s with latch := b }
  | (false, s) => .failed (transportFailure (.writeFail b) s)

/-- `TR()`, the checked read (R52). -/
def tr (half : StatusHalf) (s : State) : Run Byte :=
  match answerRead half s with
  | (some v, s) => .done v (emit (.read v) s)
  | (none, s) => .failed (transportFailure .readFail s)

/-- `Delay(t)` (R10, R64). -/
def delay (t : Nat) (s : State) : Run Unit := .done () (emit (.delay t) s)

/-- `Delay(T_EH)`. -/
def delayEH (s : State) : Run Unit := delay s.cfg.tEH s

/-- `Delay(T_EL)`. -/
def delayEL (s : State) : Run Unit := delay s.cfg.tEL s

/-! ### The nibble sequencer -/

/-- `Strobe(b)`: assert, hold, deassert, settle (R110). -/
def strobe (b : Byte) (s : State) : Run Unit :=
  let p := b ||| s.cfg.pins.en
  block [tw p, delayEH, tw b, delayEL] s

/-- `SendNibble(n, rs)`; `bl` is read once, at its first line (R111). -/
def sendNibble (n : Nibble) (rs : RegisterSelect) (s : State) : Run Unit :=
  let b := writeByte s.cfg.pins n s.bl rs
  block [tw b, strobe b] s

/-- The settle time of a byte (R112). -/
def settleTime (c : Config) : RegisterSelect → Nat
  | .command => c.commandDelay
  | .data => c.dataDelay

/-- The settle delay, last step of a byte send (R112). -/
def settle (rs : RegisterSelect) (s : State) : Run Unit := delay (settleTime s.cfg rs) s

/-- `SendByte(v, rs)`: high nibble first, then the low one, then the settle time (R112). -/
def sendByte (v : Byte) (rs : RegisterSelect) : State → Run Unit :=
  block [sendNibble (hiNibble v) rs, sendNibble (loNibble v) rs, settle rs]

/-! ### The status readback -/

/-- `ReadStatus()` (R143). -/
def readStatus (s : State) : Run Byte :=
  let b := readModeByte s.cfg.pins s.bl
  let p := b ||| s.cfg.pins.en
  (block [tw b, tw p, delayEH] s).andThen fun _ s =>
  (tr .first s).andThen fun n0 s =>
  (block [tw b, delayEL, tw p, delayEH] s).andThen fun _ s =>
  (tr .second s).andThen fun n1 s =>
  returning (block [tw b, delayEL, tw (backlightByte s.cfg.pins s.bl)]) (assembleStatus n0 n1) s

/-! ### Registers -/

/-- `phase <- p` (R131). -/
def setPhase (p : Phase) (s : State) : Run Unit := .done () { s with phase := p }

/-- `SetBacklight(v)`: the register is assigned, then one write (R180). -/
def setBacklight (v : Bool) (s : State) : Run Unit :=
  tw (backlightByte s.cfg.pins v) { s with bl := v }

/-- `FlagUpdate(reg, mask, set)`: the shadow is written, then sent whole (R155). -/
def flagUpdate (reg : FlagReg) (mask : Byte) (set : Bool) (s : State) : Run Unit :=
  let v := maskedUpdate (shadowOf s reg) mask set
  sendByte v .command (setShadow reg v s)

/-- The tail of SET_CURSOR and NEXT_LINE, on a resolved position: the home command at (0, 0), else
SetDDRAMAddress; the address is the result and is not kept (R142, R170, R30). -/
def placeCursor (r c : Nat) (s : State) : Run Byte :=
  let a := addrOf s.cfg.rowBases r c
  if r = 0 ∧ c = 0 then returning (sendByte s.cfg.family.home .command) 0 s
  else returning (sendByte (setDdramByte s.cfg.family a) .command) (a.setWidth 8) s

/-! ### Requests -/

/-- One response on the response port (R94). -/
def respond (status : Status) (value : Byte) (s : State) : State :=
  { s with responses := s.responses ++ [⟨status, value⟩] }

/-- `Admit(p)`: the check that fires first, in this order, or none (R193). `legal` is false for a reserved
code and for an illegal `reg` or `mask`. -/
def admission (need : Phase) (legal : Bool) (s : State) : Option Status :=
  if configValid s.cfg = false then some .configError
  else if s.fault then some .faulted
  else if legal = false then some .illegalRequest
  else if s.phase ≠ need then some .notReady
  else none

/-- A request: refused by Admit with no event and no change of a register (R193), or run to its end (R113)
and answered OK with its value, or cut by a failing access and answered TRANSPORT_FAILURE (R194). -/
def operation (need : Phase) (legal : Bool) (body : State → Run Byte) (s : State) :
    Host.Outcome State Fault Refusal :=
  match admission need legal s with
  | some status => .next (respond status 0 s)
  | none =>
    match body s with
    | .done v s => .next (respond .ok v s)
    | .failed s => .next (respond .transportFailure 0 s)

/-- A piece of an operation's own traffic (a CMD8 or TB8 row): no request, so no admission by phase and no
response (log 10). An inert instance (R186) and one whose fault is set (R194, R226) send nothing more. -/
def internal (body : State → Run Unit) (s : State) : Host.Outcome State Fault Refusal :=
  if configValid s.cfg && !s.fault then
    match body s with
    | .done _ s => .next s
    | .failed s => .next s
  else .next s

end Sys2Proof.Machine
end

