-- ==== Sys2Proof/Machine/Backlight.lean ====
section
/-! DEFINITION. SET_BACKLIGHT (45_backlight.md). -/

namespace Sys2Proof.Machine

/-- SET_BACKLIGHT: on for a positive value, off for every other (R181, R183). -/
def execSetBacklight (value : BitVec 16) (s : State) : Host.Outcome State Fault Refusal :=
  operation .ready true (returning (setBacklight (backlightOn value)) 0) s

end Sys2Proof.Machine
end

