-- ==== Sys2Proof/Machine/Cursor.lean ====
section
/-! DEFINITION. SET_CURSOR and the operations on the status readback (42_cursor_mapper.md). -/

namespace Sys2Proof.Machine

/-- SET_CURSOR: every operand value is legal, the position is clamped (R142, R140). -/
def execSetCursor (row col : Byte) (s : State) : Host.Outcome State Fault Refusal :=
  operation .ready true
    (fun s => let p := resolve s.cfg row.toInt col.toInt; placeCursor p.1 p.2 s) s

/-- GET_ADDR: all eight bits of the status byte, the busy flag included (R144). -/
def execGetAddr (s : State) : Host.Outcome State Fault Refusal :=
  operation .ready true readStatus s

/-- GET_LINE: the busy flag is dropped first (R147). -/
def execGetLine (s : State) : Host.Outcome State Fault Refusal :=
  operation .ready true
    (fun s => (readStatus s).andThen fun st s =>
      .done (BitVec.ofNat 8 (rowOf s.cfg (statusAddr st))) s) s

/-- IS_BUSY: one readback, no loop (R145). -/
def execIsBusy (s : State) : Host.Outcome State Fault Refusal :=
  operation .ready true
    (fun s => (readStatus s).andThen fun st s => .done (boolValue (statusBusy st)) s) s

end Sys2Proof.Machine
end

