-- ==== Sys2Proof/Machine/Init.lean ====
section
/-! DEFINITION. INIT, the one operation that walks the lifecycle (41_init_sequence.md). -/

namespace Sys2Proof.Machine

/-- One raw handshake nibble and its wait (R132). -/
def handshakeStep (n : Nibble) (wait : Nat) : State → Run Unit := block [sendNibble n .command, delay wait]

/-- The power-up wait and the 4-bit handshake of raw nibbles (R131, R132). -/
def handshake (s : State) : Run Unit :=
  let p := s.cfg.init
  block [
    delay p.tPower,
    setPhase .resetPending,
    handshakeStep p.nibble1 p.tInit1,
    handshakeStep p.nibble2 p.tInit2,
    handshakeStep p.nibble3 p.tInit3,
    handshakeStep p.nibble4 p.tInit4,
    setPhase .functionLocked] s

/-- Function set, entry mode and display control from the shadows, backlight on, clear (R131, R133, R134). -/
def setup : State → Run Unit :=
  block [
    fun s => sendByte (functionSetByte s.cfg) .command s,
    fun s => sendByte s.em .command s,
    fun s => sendByte s.dc .command s,
    setBacklight true,
    fun s => sendByte s.cfg.family.clear .command s,
    setPhase .ready]

/-- INIT: `Admit(UNPOWERED)`, no operand test (R131). -/
def execInit (s : State) : Host.Outcome State Fault Refusal :=
  operation .unpowered true (returning (block [handshake, setup]) 0) s

end Sys2Proof.Machine
end

