-- ==== Sys2Proof/Machine/Reserved.lean ====
section
/-! DEFINITION. The reserved requests (R95). -/

namespace Sys2Proof.Machine

/-- A reserved code is never legal, so Admit always answers and the body is never reached (R95, R193). -/
def execReserved (_op : Byte) (s : State) : Host.Outcome State Fault Refusal :=
  operation .ready false (fun s => .done 0 s) s

end Sys2Proof.Machine
end

