-- ==== Sys2Proof/Machine/Sequencer.lean ====
section
/-! DEFINITION. The operations that are one byte send (40_nibble_sequencer.md). -/

namespace Sys2Proof.Machine

/-- SEND_CMD: the byte is sent as it is and no shadow follows it (R114, R96). -/
def execSendCmd (value : Byte) (s : State) : Host.Outcome State Fault Refusal :=
  operation .ready true (returning (sendByte value .command) 0) s

/-- SEND_DATA (R115); no column count, no wrap (R57). -/
def execSendData (value : Byte) (s : State) : Host.Outcome State Fault Refusal :=
  operation .ready true (returning (sendByte value .data) 0) s

/-- CLEAR (R116). -/
def execClear (s : State) : Host.Outcome State Fault Refusal :=
  operation .ready true (returning (sendByte s.cfg.family.clear .command) 0) s

/-- HOME (R117). -/
def execHome (s : State) : Host.Outcome State Fault Refusal :=
  operation .ready true (returning (sendByte s.cfg.family.home .command) 0) s

end Sys2Proof.Machine
end

