-- ==== Sys2Proof/Machine/Shadow.lean ====
section
/-! DEFINITION. The flag operations on the shadow registers (43_shadow_flags.md). -/

namespace Sys2Proof.Machine

/-- CURSOR_ON (R158). -/
def execCursorOn (s : State) : Host.Outcome State Fault Refusal :=
  operation .ready true (returning (flagUpdate .display s.cfg.family.dcCursor true) 0) s

/-- CURSOR_OFF (R159). -/
def execCursorOff (s : State) : Host.Outcome State Fault Refusal :=
  operation .ready true (returning (flagUpdate .display s.cfg.family.dcCursor false) 0) s

/-- BLINK_ON (R160). -/
def execBlinkOn (s : State) : Host.Outcome State Fault Refusal :=
  operation .ready true (returning (flagUpdate .display s.cfg.family.dcBlink true) 0) s

/-- BLINK_OFF (R161). -/
def execBlinkOff (s : State) : Host.Outcome State Fault Refusal :=
  operation .ready true (returning (flagUpdate .display s.cfg.family.dcBlink false) 0) s

/-- DISPLAY_ON: the display bit first, then the backlight (R162, D15). -/
def execDisplayOn (s : State) : Host.Outcome State Fault Refusal :=
  operation .ready true
    (returning (block [flagUpdate .display s.cfg.family.dcDisplay true, setBacklight true]) 0) s

/-- DISPLAY_OFF: the backlight first, then the display bit (R163, D15). -/
def execDisplayOff (s : State) : Host.Outcome State Fault Refusal :=
  operation .ready true
    (returning (block [setBacklight false, flagUpdate .display s.cfg.family.dcDisplay false]) 0) s

/-- FLAG_SET (R156). -/
def execFlagSet (reg mask : Byte) (s : State) : Host.Outcome State Fault Refusal :=
  operation .ready (flagOperandsLegal s.cfg.family reg mask)
    (returning (flagUpdate (flagReg reg) mask true) 0) s

/-- FLAG_CLR (R157). -/
def execFlagClr (reg mask : Byte) (s : State) : Host.Outcome State Fault Refusal :=
  operation .ready (flagOperandsLegal s.cfg.family reg mask)
    (returning (flagUpdate (flagReg reg) mask false) 0) s

end Sys2Proof.Machine
end

