-- ==== Sys2Proof/Machine/Text.lean ====
section
/-! DEFINITION. NEXT_LINE, the cursor-advance half of `printLine` (44_text_output.md). -/

namespace Sys2Proof.Machine

/-- NEXT_LINE: the row is read back, the next one taken circularly, and the cursor placed at its column 0
as SET_CURSOR would (R170). -/
def execNextLine (s : State) : Host.Outcome State Fault Refusal :=
  operation .ready true
    (fun s => (readStatus s).andThen fun st s =>
      placeCursor (nextRow s.cfg (rowOf s.cfg (statusAddr st))) 0 s) s

end Sys2Proof.Machine
end

