-- ==== Sys2Proof/WellFormed.lean ====
section
/-! DEFINITION. Which terms of `Instr` are instructions of the table. The only operands that can be out
of place are a reserved code below 0x13 (R92, R95) and a `TB_Write` spelling of the backlight-only byte,
which the table lists as a row of its own ("a special case of TB_Write with n = 0, e = 0, r = 0"). -/

namespace Sys2Proof

/-- Codes from here on are reserved (R95). -/
abbrev firstReservedOp : Byte := 0x13

/-- The check. FLAG_SET and FLAG_CLR with an illegal `reg` or `mask` ARE instructions: the block answers
them (R95, R193). -/
def Instr.wellFormed : Instr → Bool
  | .reserved op => decide (firstReservedOp ≤ op)
  | .tbWrite nibble _ enable dataSelect => !(nibble == 0 && !enable && !dataSelect)
  | .init => true
  | .sendCmd _ => true
  | .sendData _ => true
  | .clear => true
  | .home => true
  | .setCursor _ _ => true
  | .getAddr => true
  | .getLine => true
  | .isBusy => true
  | .cursorOn => true
  | .cursorOff => true
  | .blinkOn => true
  | .blinkOff => true
  | .displayOn => true
  | .displayOff => true
  | .setBacklight _ => true
  | .nextLine => true
  | .flagSet _ _ => true
  | .flagClr _ _ => true
  | .cmdClearDisplay => true
  | .cmdReturnHome => true
  | .cmdEntryModeSet _ _ => true
  | .cmdDisplayControl _ _ _ => true
  | .cmdFunctionSet _ _ _ => true
  | .cmdSetDDRAMAddress _ => true
  | .tbReadMode _ _ => true
  | .tbBacklightOnly _ => true

end Sys2Proof
end

