-- ==== Sys2Proof/Decode.lean ====
section
/-! DEFINITION. The decoder, total on every code, and the encoder, both written from the tables of
30_encoding.md (R80 to R86, R90 to R95) and opcode_table.json. Command codes and pin masks are parameters
(R5, R85); `decode` and `encode` are at the values of R5. -/

namespace Sys2Proof

open Sys2Proof.Machine

/-! ### The request word (R90 to R93) -/

/-- `op`, bits 23:16 (R90). -/
def opField (w : RequestWord) : Byte := w.extractLsb' 16 8

/-- `a`, bits 15:8 (R90). -/
def aField (w : RequestWord) : Byte := w.extractLsb' 8 8

/-- `b`, bits 7:0 (R90). -/
def bField (w : RequestWord) : Byte := w.extractLsb' 0 8

/-- Decoding a request never fails: a code outside R92's table is the reserved request of R95. Fields an
operation does not use are ignored (R91). -/
def decodeRequest (w : RequestWord) : Instr :=
  match (opField w).toNat with
  | 0x00 => .init
  | 0x01 => .sendCmd (aField w)
  | 0x02 => .sendData (aField w)
  | 0x03 => .clear
  | 0x04 => .home
  | 0x05 => .setCursor (aField w) (bField w)
  | 0x06 => .getAddr
  | 0x07 => .getLine
  | 0x08 => .isBusy
  | 0x09 => .cursorOn
  | 0x0A => .cursorOff
  | 0x0B => .blinkOn
  | 0x0C => .blinkOff
  | 0x0D => .displayOn
  | 0x0E => .displayOff
  | 0x0F => .setBacklight (aField w ++ bField w)
  | 0x10 => .nextLine
  | 0x11 => .flagSet (aField w) (bField w)
  | 0x12 => .flagClr (aField w) (bField w)
  | _ => .reserved (opField w)

/-! ### Command bytes and transport bytes (R80 to R86) -/

/-- Why a byte is refused. -/
inductive DecodeError where
  /-- A command byte of none of the six forms the block builds (R85). -/
  | notACommandOfTheBlock (b : Byte)
  /-- A transport byte of none of the forms the block writes (R84): R/W = 1 outside R82's form. -/
  | notATransportByteOfTheBlock (b : Byte)
  deriving DecidableEq, Repr

/-- A flag of a byte, by its mask. -/
def flagIn (mask b : Byte) : Bool := b &&& mask != 0

/-- The six command-byte rows with a family's codes (R85, R86): a byte is of a flagged form when it is the form's
prefix once the flags are taken out. -/
def decodeCommandOf (f : Family) (b : Byte) : Except DecodeError Instr :=
  if b = f.clear then .ok .cmdClearDisplay
  else if b = f.home then .ok .cmdReturnHome
  else if b &&& ~~~ (f.emInc ||| f.emShift) = f.entryMode then
    .ok (.cmdEntryModeSet (flagIn f.emInc b) (flagIn f.emShift b))
  else if b &&& ~~~ (f.dcDisplay ||| f.dcCursor ||| f.dcBlink) = f.displayCtrl then
    .ok (.cmdDisplayControl (flagIn f.dcDisplay b) (flagIn f.dcCursor b) (flagIn f.dcBlink b))
  else if b &&& ~~~ (f.fs8Bit ||| f.fs2Line ||| f.fs5x10) = f.functionSet then
    .ok (.cmdFunctionSet (flagIn f.fs8Bit b) (flagIn f.fs2Line b) (flagIn f.fs5x10 b))
  else if b &&& 0x80 = f.setDdram then .ok (.cmdSetDDRAMAddress (b.extractLsb' 0 7))
  else .error (.notACommandOfTheBlock b)

/-- The three transport-byte rows with the masks of the pins (R81 to R83). The backlight-only row is a special
case of the write row, so it is asked first. -/
def decodeTransportOf (p : Pins) (b : Byte) : Except DecodeError Instr :=
  if b &&& ~~~ p.bl = 0x00 then .ok (.tbBacklightOnly (flagIn p.bl b))
  else if b &&& p.rw = 0x00 then
    .ok (.tbWrite (b.extractLsb' 4 4) (flagIn p.bl b) (flagIn p.en b) (flagIn p.rs b))
  else if b &&& ~~~ (p.bl ||| p.en) = 0xF0 ||| p.rw then
    .ok (.tbReadMode (flagIn p.bl b) (flagIn p.en b))
  else .error (.notATransportByteOfTheBlock b)

/-- The decoder of an instance with codes `f` and masks `p`, total on every code. The request encoding has no
parameter. -/
def decodeOf (f : Family) (p : Pins) : Code → Except DecodeError Instr
  | .request w => .ok (decodeRequest w)
  | .command b => decodeCommandOf f b
  | .transport b => decodeTransportOf p b

/-- The decoder with the values of R5, which are those of opcode_table.json. -/
def decode : Code → Except DecodeError Instr := decodeOf standardFamily standardPins

/-! ### The encoder -/

/-- `op a b` as one word (R90). -/
def packRequest (op a b : Byte) : RequestWord := op ++ a ++ b

/-- A flag as the bits of its mask. -/
def maskIf (mask : Byte) (c : Bool) : Byte := if c then mask else 0

/-- The code of an instruction with codes `f` and masks `p`, unused request fields zero (R98). -/
def encodeOf (f : Family) (p : Pins) : Instr → Code
  | .init => .request (packRequest 0x00 0 0)
  | .sendCmd value => .request (packRequest 0x01 value 0)
  | .sendData value => .request (packRequest 0x02 value 0)
  | .clear => .request (packRequest 0x03 0 0)
  | .home => .request (packRequest 0x04 0 0)
  | .setCursor row col => .request (packRequest 0x05 row col)
  | .getAddr => .request (packRequest 0x06 0 0)
  | .getLine => .request (packRequest 0x07 0 0)
  | .isBusy => .request (packRequest 0x08 0 0)
  | .cursorOn => .request (packRequest 0x09 0 0)
  | .cursorOff => .request (packRequest 0x0A 0 0)
  | .blinkOn => .request (packRequest 0x0B 0 0)
  | .blinkOff => .request (packRequest 0x0C 0 0)
  | .displayOn => .request (packRequest 0x0D 0 0)
  | .displayOff => .request (packRequest 0x0E 0 0)
  | .setBacklight value =>
    .request (packRequest 0x0F (value.extractLsb' 8 8) (value.extractLsb' 0 8))
  | .nextLine => .request (packRequest 0x10 0 0)
  | .flagSet reg mask => .request (packRequest 0x11 reg mask)
  | .flagClr reg mask => .request (packRequest 0x12 reg mask)
  | .reserved op => .request (packRequest op 0 0)
  | .cmdClearDisplay => .command f.clear
  | .cmdReturnHome => .command f.home
  | .cmdEntryModeSet inc shift =>
    .command (f.entryMode ||| maskIf f.emInc inc ||| maskIf f.emShift shift)
  | .cmdDisplayControl display cursor blink =>
    .command (f.displayCtrl ||| maskIf f.dcDisplay display ||| maskIf f.dcCursor cursor |||
      maskIf f.dcBlink blink)
  | .cmdFunctionSet eightBit twoLine font5x10 =>
    .command (f.functionSet ||| maskIf f.fs8Bit eightBit ||| maskIf f.fs2Line twoLine |||
      maskIf f.fs5x10 font5x10)
  | .cmdSetDDRAMAddress addr => .command (f.setDdram ||| addr.setWidth 8)
  | .tbWrite nibble backlight enable dataSelect =>
    .transport (nibble.setWidth 8 <<< 4 ||| maskIf p.bl backlight ||| maskIf p.en enable |||
      maskIf p.rs dataSelect)
  | .tbReadMode backlight enable =>
    .transport (0xF0 ||| p.rw ||| maskIf p.bl backlight ||| maskIf p.en enable)
  | .tbBacklightOnly backlight => .transport (maskIf p.bl backlight)

/-- The code of an instruction with the values of R5, which are those of opcode_table.json. -/
def encode : Instr → Code := encodeOf standardFamily standardPins

/-! ### Words numbered as the opcode table numbers them -/

/-- Which of the two 8-bit formats a bare byte is read as, where only its bits are known (log 12): the
read-mode form, which no command sent by the block has, then a command form, else a transport byte. -/
def codeOfByte (b : Byte) : Code :=
  if b &&& 0xF3 = 0xF2 then .transport b
  else match decodeCommandOf standardFamily b with
    | .ok _ => .command b
    | .error _ => .transport b

/-- The code whose bits are `w`: a bare byte when the table gives the row 8 bits, else a request word. -/
def tableCode (nbits w : Nat) : Code :=
  if nbits = 8 then codeOfByte (BitVec.ofNat 8 w) else .request (BitVec.ofNat 24 w)

/-- What the decoder reads from an instruction whose bits are `w`, numbered as opcode_table.json does. -/
def decodeTableWord (nbits w : Nat) : Option Instr := (decode (tableCode nbits w)).toOption

end Sys2Proof
end

