-- ==== Sys2Proof/Machine/Traffic.lean ====
section
/-! DEFINITION. The rows of the opcode table that are not requests but what a running operation emits
(30_encoding.md R80 to R86): a command byte is sent with RS = 0 as two nibbles, a transport byte is written
as it stands (log 10). The bytes are the encoder's, with the codes and masks of the configuration. -/

namespace Sys2Proof.Machine

/-- The byte of a code of one of the two 8-bit formats. -/
def codeByte : Code → Byte
  | .command b => b
  | .transport b => b
  | .request _ => 0

/-- A command byte of the block: `SendByte(b, 0)` (R85, R112). -/
def emitCommand (i : Instr) (s : State) : Host.Outcome State Fault Refusal :=
  internal (sendByte (codeByte (encodeOf s.cfg.family s.cfg.pins i)) .command) s

/-- A transport byte of the block: `TW(b)` (R51, R81 to R83). -/
def emitTransport (i : Instr) (s : State) : Host.Outcome State Fault Refusal :=
  internal (tw (codeByte (encodeOf s.cfg.family s.cfg.pins i))) s

/-- ClearDisplay (R85). -/
def execCmdClearDisplay (s : State) : Host.Outcome State Fault Refusal :=
  emitCommand .cmdClearDisplay s

/-- ReturnHome (R85). -/
def execCmdReturnHome (s : State) : Host.Outcome State Fault Refusal :=
  emitCommand .cmdReturnHome s

/-- EntryModeSet (R85). -/
def execCmdEntryModeSet (inc shift : Bool) (s : State) : Host.Outcome State Fault Refusal :=
  emitCommand (.cmdEntryModeSet inc shift) s

/-- DisplayControl (R85). -/
def execCmdDisplayControl (display cursor blink : Bool) (s : State) :
    Host.Outcome State Fault Refusal :=
  emitCommand (.cmdDisplayControl display cursor blink) s

/-- FunctionSet (R85). -/
def execCmdFunctionSet (eightBit twoLine font5x10 : Bool) (s : State) :
    Host.Outcome State Fault Refusal :=
  emitCommand (.cmdFunctionSet eightBit twoLine font5x10) s

/-- SetDDRAMAddress (R86). -/
def execCmdSetDDRAMAddress (addr : DdramAddr) (s : State) : Host.Outcome State Fault Refusal :=
  emitCommand (.cmdSetDDRAMAddress addr) s

/-- The write-direction byte (R81). -/
def execTbWrite (nibble : Nibble) (backlight enable dataSelect : Bool) (s : State) :
    Host.Outcome State Fault Refusal :=
  emitTransport (.tbWrite nibble backlight enable dataSelect) s

/-- The read-direction byte (R82). -/
def execTbReadMode (backlight enable : Bool) (s : State) : Host.Outcome State Fault Refusal :=
  emitTransport (.tbReadMode backlight enable) s

/-- The backlight-only byte (R83). -/
def execTbBacklightOnly (backlight : Bool) (s : State) : Host.Outcome State Fault Refusal :=
  emitTransport (.tbBacklightOnly backlight) s

end Sys2Proof.Machine
end

