-- ==== Sys2Proof/Machine/Dispatch.lean ====
section
/-! DEFINITION. One arm per instruction. -/

namespace Sys2Proof.Machine

def exec (i : Instr) (s : State) : Host.Outcome State Fault Refusal :=
  match i with
  | .init => Sys2Proof.Machine.execInit s
  | .sendCmd value => Sys2Proof.Machine.execSendCmd value s
  | .sendData value => Sys2Proof.Machine.execSendData value s
  | .clear => Sys2Proof.Machine.execClear s
  | .home => Sys2Proof.Machine.execHome s
  | .setCursor row col => Sys2Proof.Machine.execSetCursor row col s
  | .getAddr => Sys2Proof.Machine.execGetAddr s
  | .getLine => Sys2Proof.Machine.execGetLine s
  | .isBusy => Sys2Proof.Machine.execIsBusy s
  | .cursorOn => Sys2Proof.Machine.execCursorOn s
  | .cursorOff => Sys2Proof.Machine.execCursorOff s
  | .blinkOn => Sys2Proof.Machine.execBlinkOn s
  | .blinkOff => Sys2Proof.Machine.execBlinkOff s
  | .displayOn => Sys2Proof.Machine.execDisplayOn s
  | .displayOff => Sys2Proof.Machine.execDisplayOff s
  | .setBacklight value => Sys2Proof.Machine.execSetBacklight value s
  | .nextLine => Sys2Proof.Machine.execNextLine s
  | .flagSet reg mask => Sys2Proof.Machine.execFlagSet reg mask s
  | .flagClr reg mask => Sys2Proof.Machine.execFlagClr reg mask s
  | .reserved op => Sys2Proof.Machine.execReserved op s
  | .cmdClearDisplay => Sys2Proof.Machine.execCmdClearDisplay s
  | .cmdReturnHome => Sys2Proof.Machine.execCmdReturnHome s
  | .cmdEntryModeSet inc shift => Sys2Proof.Machine.execCmdEntryModeSet inc shift s
  | .cmdDisplayControl display cursor blink => Sys2Proof.Machine.execCmdDisplayControl display cursor blink s
  | .cmdFunctionSet eightBit twoLine font5x10 => Sys2Proof.Machine.execCmdFunctionSet eightBit twoLine font5x10 s
  | .cmdSetDDRAMAddress addr => Sys2Proof.Machine.execCmdSetDDRAMAddress addr s
  | .tbWrite nibble backlight enable dataSelect => Sys2Proof.Machine.execTbWrite nibble backlight enable dataSelect s
  | .tbReadMode backlight enable => Sys2Proof.Machine.execTbReadMode backlight enable s
  | .tbBacklightOnly backlight => Sys2Proof.Machine.execTbBacklightOnly backlight s

end Sys2Proof.Machine
end

