-- ==== Sys2Proof/Machine/Fetch.lean ====
section
/-! DEFINITION. Where the next instruction comes from. What a running operation has still to emit comes
first, since an operation runs to completion (R31, R113); then the oldest request on the port (D34). -/

namespace Sys2Proof.Machine

/-- The code the block takes next, and the state once it is taken: a request is sampled once, when it is
accepted, and leaves the port (R66). `none` when the block is idle (R201). -/
def fetch (s : State) : Option (Code × State) :=
  match s.todo with
  | t :: rest => some (t.code, { s with todo := rest })
  | [] =>
    match s.requests with
    | w :: rest => some (.request w, { s with requests := rest })
    | [] => none

/-- The host presents one more request, which waits its turn (R113, D34). -/
def present (w : RequestWord) (s : State) : State := { s with requests := s.requests ++ [w] }

/-- `s` with `c` where `fetch` takes its next code: a request at the head of the port with nothing left to
emit before it, traffic at the head of `todo` (log 18). -/
def place (c : Code) (s : State) : State :=
  match c with
  | .request w => { s with todo := [], requests := w :: s.requests }
  | .command b => { s with todo := .command b :: s.todo }
  | .transport b => { s with todo := .transport b :: s.todo }

end Sys2Proof.Machine
end

