-- ==== Sys2Proof/Machine/Step.lean ====
section
/-! DEFINITION. One step: the next instruction is taken and run; with none the block is idle and holds its
registers (R201). -/

namespace Sys2Proof.Machine

/-- One step. The command codes and pin masks that a code is decoded by are the configuration's (R85). -/
def step (s : State) : Host.Outcome State Fault Refusal :=
  match fetch s with
  | none => .next s
  | some (c, s) =>
    match decodeOf s.cfg.family s.cfg.pins c with
    | .ok i => exec i s
    | .error _ => .fault (.notAFormOfTheBlock c)

/-- `s` with the instruction whose bits are `w` where `step` takes its next instruction (log 18). -/
def State.withFetchWord (s : State) (nbits w : Nat) : State := place (tableCode nbits w) s

end Sys2Proof.Machine
end

