-- ==== Sys2Proof/Machine/Assembler.lean ====
section
/-! DEFINITION. The assembler line of R98 and the pseudo-instructions of R99, as tokens: which requests a line
stands for and the six hexadecimal digits they are written as. It is the host's tool; the block sees only
the words. -/

namespace Sys2Proof.Machine

/-- An operand of a line (R98). -/
inductive AsmOperand where
  /-- A decimal or hexadecimal number, negative where the operand is signed. -/
  | number (n : Int)
  /-- A quoted character, which stands for its code. -/
  | character (code : Nat)
  /-- The register name ENTRY. -/
  | entry
  /-- The register name DISPLAY. -/
  | display
  deriving DecidableEq, Repr

/-- The mnemonics of requests (R92). -/
inductive AsmOp where
  | init | sendCmd | sendData | clear | home | setCursor | getAddr | getLine | isBusy
  | cursorOn | cursorOff | blinkOn | blinkOff | displayOn | displayOff | setBacklight
  | nextLine | flagSet | flagClr
  deriving DecidableEq, Repr

/-- One line. -/
inductive AsmLine where
  /-- `MNEMONIC operand, operand` (R98). -/
  | request (op : AsmOp) (operands : List AsmOperand)
  /-- `WRITE c` (R175). -/
  | write (c : AsmOperand)
  /-- `PRINT "text"`, the text as code points (R171). -/
  | print (text : List Nat)
  /-- `PRINTLN "text"` (R172). -/
  | println (text : List Nat)
  deriving DecidableEq, Repr

/-- The number an operand stands for. A register name is no number (log 20). -/
def AsmOperand.value : AsmOperand → Option Int
  | .number n => some n
  | .character code => some code
  | .entry | .display => none

/-- An operand as a number within the bounds of its field; outside them it has no encoding (R93, log 20). -/
def boundedOperand (lo hi : Int) (o : AsmOperand) : Option Int :=
  o.value.bind fun n => if lo ≤ n ∧ n ≤ hi then some n else none

/-- An unsigned 8-bit operand (R93). -/
def unsignedOperand (o : AsmOperand) : Option Byte := (boundedOperand 0 255 o).map (BitVec.ofInt 8)

/-- A signed 8-bit operand (R93). -/
def signedOperand (o : AsmOperand) : Option Byte := (boundedOperand (-128) 127 o).map (BitVec.ofInt 8)

/-- A signed 16-bit operand (R93). -/
def wideOperand (o : AsmOperand) : Option (BitVec 16) :=
  (boundedOperand (-32768) 32767 o).map (BitVec.ofInt 16)

/-- The `reg` operand of FLAG_SET and FLAG_CLR: the names ENTRY and DISPLAY stand for 0 and 1 (R93, R98), and only
here: DESIGN CHOICE (log 20). A number is taken as it is, legal or not. -/
def regOperand : AsmOperand → Option Byte
  | .entry => some 0
  | .display => some 1
  | .number n => unsignedOperand (.number n)
  | .character code => unsignedOperand (.character code)

/-- The request of a line, `none` when the operands do not fit the mnemonic. -/
def assembleRequest : AsmOp → List AsmOperand → Option Instr
  | .init, [] => some .init
  | .sendCmd, [v] => (unsignedOperand v).map .sendCmd
  | .sendData, [v] => (unsignedOperand v).map .sendData
  | .clear, [] => some .clear
  | .home, [] => some .home
  | .setCursor, [r, c] =>
    (signedOperand r).bind fun r => (signedOperand c).map fun c => .setCursor r c
  | .getAddr, [] => some .getAddr
  | .getLine, [] => some .getLine
  | .isBusy, [] => some .isBusy
  | .cursorOn, [] => some .cursorOn
  | .cursorOff, [] => some .cursorOff
  | .blinkOn, [] => some .blinkOn
  | .blinkOff, [] => some .blinkOff
  | .displayOn, [] => some .displayOn
  | .displayOff, [] => some .displayOff
  | .setBacklight, [v] => (wideOperand v).map .setBacklight
  | .nextLine, [] => some .nextLine
  | .flagSet, [r, m] =>
    (regOperand r).bind fun r => (unsignedOperand m).map fun m => .flagSet r m
  | .flagClr, [r, m] =>
    (regOperand r).bind fun r => (unsignedOperand m).map fun m => .flagClr r m
  | _, _ => none

/-- One SEND_DATA per character, in order; a text with a code above 255 is refused whole (R171, U17). -/
def expandText : List Nat → Option (List Instr)
  | [] => some []
  | c :: rest =>
    if c ≤ 255 then (expandText rest).map fun is => .sendData (BitVec.ofNat 8 c) :: is else none

/-- The requests a line stands for (R98, R99). -/
def expandLine : AsmLine → Option (List Instr)
  | .request op operands => (assembleRequest op operands).map fun i => [i]
  | .write c => (unsignedOperand c).map fun b => [.sendData b]
  | .print text => expandText text
  | .println text => (expandText text).map fun is => is ++ [.nextLine]

/-- The word of a request (R90). -/
def requestWord (i : Instr) : Option RequestWord :=
  match encode i with
  | .request w => some w
  | .command _ | .transport _ => none

/-- The words of a line, in order. -/
def assembleLine (l : AsmLine) : Option (List RequestWord) :=
  (expandLine l).bind fun is => is.mapM requestWord

/-- One hexadecimal digit. -/
def hexDigit (n : Nibble) : Char :=
  if n.toNat < 10 then Char.ofNat (48 + n.toNat) else Char.ofNat (55 + n.toNat)

/-- A word "written as six hexadecimal digits" (R98). -/
def sixDigits (w : RequestWord) : List Char :=
  [w.extractLsb' 20 4, w.extractLsb' 16 4, w.extractLsb' 12 4, w.extractLsb' 8 4,
    w.extractLsb' 4 4, w.extractLsb' 0 4].map hexDigit

end Sys2Proof.Machine
end

