-- ==== Sys2Proof/Safety.lean ====
section
/-! DEFINITION. What claims are stated in: when an instruction completes, the spec's own trace formulas, what
a cut trace is, and the invariant of a safe run between operations. -/

namespace Sys2Proof.Machine

/-! ### When an operation completes -/

/-- Admit lets a legal request that needs phase `p` proceed (R193). -/
abbrev State.admitted (p : Phase) (s : State) : Prop :=
  configValid s.cfg = true ∧ s.fault = false ∧ s.phase = p

/-- The next `n` accesses all succeed: in simulation always (R68), else when none of the next `n` answers
of the oracle is a failure. -/
abbrev State.accessesOk (n : Nat) (s : State) : Prop :=
  s.cfg.sim = true ∨ Answer.fail ∉ s.answers.take n

/-- The oracle's answers once `n` accesses have been made; the stub of R68 uses none of them. -/
def State.answersAfter (n : Nat) (s : State) : List Answer :=
  if s.cfg.sim then s.answers else s.answers.drop n

/-- The byte the access `k` from now answers if it is the read number `j` from now: the oracle's, or free
where the oracle gives none. -/
def State.scriptedRead (k j : Nat) (s : State) : Byte :=
  match s.answers[k]? with
  | some (.answered v) => v
  | _ => Config.freeRead (s.draws + j)

/-- The two bytes a status read that starts now gets: its third and sixth access (R143), or the stub's (R68). -/
def State.statusReads (s : State) : Byte × Byte :=
  if s.cfg.sim then (s.cfg.mockReadback &&& 0xF0, (s.cfg.mockReadback <<< 4) &&& 0xF0)
  else (s.scriptedRead 2 0, s.scriptedRead 5 1)

/-- The count of real reads once a status read has been made. -/
def State.drawsAfterStatus (s : State) : Nat := if s.cfg.sim then s.draws else s.draws + 2

/-- The status byte a status read that starts now returns: `(n0 & 0xF0) | (n1 >> 4)` (R55). -/
def State.statusByte (s : State) : Byte :=
  (s.statusReads.1 &&& 0xF0) ||| (s.statusReads.2 >>> 4)

/-- `s` after `n` successful accesses that are all writes: their events and the waits between them
appended, the last byte written in `latch`, `n` answers used. Everything else as in `s`. -/
def State.advanced (tr : List Event) (last : Byte) (n : Nat) (s : State) : State :=
  { s with
    trace := s.trace ++ tr
    latch := last
    answers := s.answersAfter n }

/-- `s` once an operation has run to its end: advanced, and OK with `v` answered. Everything else as in
`s`. -/
def State.completed (tr : List Event) (last : Byte) (n : Nat) (v : Byte) (s : State) : State :=
  { s.advanced tr last n with responses := s.responses ++ [⟨.ok, v⟩] }

/-! ### The spec's trace formulas, in the names of the configuration -/

/-- The backlight bit of a transport byte, `bl << 3` (R80), as the mask `BL` (log 7). -/
def backlightBits (c : Config) (bl : Bool) : Byte := if bl then c.pins.bl else 0x00

/-- `W(b) W(b|EN) D(T_EH) W(b) D(T_EL)` (R111). -/
def nibbleTrace (c : Config) (b : Byte) : List Event :=
  [.write b, .write (b ||| c.pins.en), .delay c.tEH, .write b, .delay c.tEL]

/-- `h = (v[7:4] << 4) | (bl << 3) | rs` (R112); `v[7:4] << 4` is `v & 0xF0`. -/
def highByte (c : Config) (bl : Bool) (v rs : Byte) : Byte := (v &&& 0xF0) ||| backlightBits c bl ||| rs

/-- `l = (v[3:0] << 4) | (bl << 3) | rs` (R112); `v[3:0] << 4` is `v << 4` at 8 bits (R8). -/
def lowByte (c : Config) (bl : Bool) (v rs : Byte) : Byte := (v <<< 4) ||| backlightBits c bl ||| rs

/-- The trace of a byte send, with its settle time (R112). -/
def byteTrace (c : Config) (bl : Bool) (v rs : Byte) (settle : Nat) : List Event :=
  nibbleTrace c (highByte c bl v rs) ++ nibbleTrace c (lowByte c bl v rs) ++ [.delay settle]

/-- The trace of a byte send with RS = 0. -/
def commandTrace (c : Config) (bl : Bool) (v : Byte) : List Event :=
  byteTrace c bl v 0x00 c.commandDelay

/-- The trace of a byte send with RS = 1. -/
def dataTrace (c : Config) (bl : Bool) (v : Byte) : List Event :=
  byteTrace c bl v c.pins.rs c.dataDelay

/-- The trace of a status read that gets `n0` then `n1` (R143). -/
def statusTrace (c : Config) (bl : Bool) (n0 n1 : Byte) : List Event :=
  let b : Byte := 0xF0 ||| backlightBits c bl ||| c.pins.rw
  [.write b, .write (b ||| c.pins.en), .delay c.tEH, .read n0, .write b, .delay c.tEL,
    .write (b ||| c.pins.en), .delay c.tEH, .read n1, .write b, .delay c.tEL, .write (backlightBits c bl)]

/-- The trace of one raw handshake nibble with its wait (R131, R132). -/
def handshakeTrace (c : Config) (bl : Bool) (n : Nibble) (wait : Nat) : List Event :=
  nibbleTrace c ((n.setWidth 8 <<< 4) ||| backlightBits c bl) ++ [.delay wait]

/-- The trace of INIT (R131): handshake, function set, the two shadows, backlight on, clear. -/
def initTrace (c : Config) (bl : Bool) (em dc : Byte) : List Event :=
  [.delay c.init.tPower] ++
    handshakeTrace c bl c.init.nibble1 c.init.tInit1 ++ handshakeTrace c bl c.init.nibble2 c.init.tInit2 ++
    handshakeTrace c bl c.init.nibble3 c.init.tInit3 ++ handshakeTrace c bl c.init.nibble4 c.init.tInit4 ++
    commandTrace c bl (c.family.functionSet ||| (if 1 < c.rows then c.family.fs2Line else 0)) ++
    commandTrace c bl em ++ commandTrace c bl dc ++ [.write c.pins.bl] ++ commandTrace c true c.family.clear

/-! ### Reading a trace -/

/-- The event is a failed access. -/
def Event.isFailure : Event → Bool
  | .writeFail _ | .readFail => true
  | .write _ | .read _ | .delay _ => false

/-- The byte a successful write carried. -/
def Event.written : Event → Option Byte
  | .write b => some b
  | .writeFail _ | .read _ | .readFail | .delay _ => none

/-- The byte a write carried, whether it succeeded or failed. -/
def Event.formed : Event → Option Byte
  | .write b | .writeFail b => some b
  | .read _ | .readFail | .delay _ => none

/-- The bytes the block formed for a write, in order. -/
def formedBytes (tr : List Event) : List Byte := tr.filterMap Event.formed

/-- The bytes successfully written, in order. -/
def writtenBytes (tr : List Event) : List Byte := tr.filterMap Event.written

/-- How many accesses a trace holds. -/
def accesses : List Event → Nat
  | [] => 0
  | .delay _ :: tr => accesses tr
  | _ :: tr => accesses tr + 1

/-- The sum of the waits of a trace, in microseconds (R234). -/
def waits : List Event → Nat
  | [] => 0
  | .delay t :: tr => t + waits tr
  | _ :: tr => waits tr

/-- A trace cut at its access number `k`, which fails: exactly the events before it, then the failure
(R194). -/
def cutAt : Nat → List Event → List Event
  | _, [] => []
  | k, .delay t :: tr => .delay t :: cutAt k tr
  | 0, .write b :: _ => [.writeFail b]
  | 0, .read _ :: _ => [.readFail]
  | k + 1, .write b :: tr => .write b :: cutAt k tr
  | k + 1, .read v :: tr => .read v :: cutAt k tr
  | _, .writeFail b :: _ => [.writeFail b]
  | _, .readFail :: _ => [.readFail]

/-! ### Requests -/

/-- The instruction is a request (R92, R95), not traffic of a running operation. -/
def isRequest (i : Instr) : Bool :=
  match encode i with
  | .request _ => true
  | .command _ | .transport _ => false

/-- The phase a request needs (R193): UNPOWERED for INIT, READY for all others. -/
def neededPhase : Instr → Phase
  | .init => .unpowered
  | _ => .ready

/-- The request names no reserved code and no illegal `reg` or `mask` (R95, R156): `reg` 0 with a mask inside the
flags of EntryModeSet, or `reg` 1 with one inside those of DisplayControl; 0x03 and 0x07 with the values of R5 (log
7). -/
def requestLegal (f : Family) : Instr → Prop
  | .reserved _ => False
  | .flagSet reg mask | .flagClr reg mask =>
    (reg = 0 ∧ mask &&& ~~~ (f.emInc ||| f.emShift) = 0) ∨
    (reg = 1 ∧ mask &&& ~~~ (f.dcDisplay ||| f.dcCursor ||| f.dcBlink) = 0)
  | _ => True

/-- The bits of a request word its operation reads (R91, R92). -/
def usedBits : Instr → RequestWord
  | .sendCmd _ | .sendData _ => 0xFFFF00
  | .setCursor _ _ | .setBacklight _ | .flagSet _ _ | .flagClr _ _ => 0xFFFFFF
  | _ => 0xFF0000

/-! ### The configuration -/

/-- Every parameter whose legal value R5 calls "fixed" has the value R5 gives. -/
abbrev configStandard (c : Config) : Prop :=
  c.pins = standardPins ∧ c.rowBases = standardRowBases ∧ c.family = standardFamily ∧ c.init = standardInit

/-- "the prefix and flag bits being distinct" (D11, G3): in each of the three flagged commands no two flags share a
bit and no flag has a bit of the prefix. -/
abbrev familyDistinct (f : Family) : Prop :=
  (f.emInc &&& f.emShift = 0 ∧ f.entryMode &&& (f.emInc ||| f.emShift) = 0) ∧
  (f.dcDisplay &&& f.dcCursor = 0 ∧ f.dcDisplay &&& f.dcBlink = 0 ∧ f.dcCursor &&& f.dcBlink = 0 ∧
    f.displayCtrl &&& (f.dcDisplay ||| f.dcCursor ||| f.dcBlink) = 0) ∧
  f.fs8Bit &&& f.fs2Line = 0 ∧ f.fs8Bit &&& f.fs5x10 = 0 ∧ f.fs2Line &&& f.fs5x10 = 0 ∧
    f.functionSet &&& (f.fs8Bit ||| f.fs2Line ||| f.fs5x10) = 0

/-- The mask and pattern of each command form of a family, as opcode_table.json has them for the values of R5. -/
def commandRows (f : Family) : List (Byte × Byte) :=
  [(0xFF, f.clear), (0xFF, f.home), (~~~ (f.emInc ||| f.emShift), f.entryMode),
    (~~~ (f.dcDisplay ||| f.dcCursor ||| f.dcBlink), f.displayCtrl),
    (~~~ (f.fs8Bit ||| f.fs2Line ||| f.fs5x10), f.functionSet), (0x80, f.setDdram)]

/-- A family whose command bytes can be told apart: its bits are distinct, no flag is empty, SetDDRAMAddress leaves
the seven address bits free, and no two forms overlap. -/
abbrev familyDecodable (f : Family) : Prop :=
  familyDistinct f ∧
  (∀ m ∈ [f.emInc, f.emShift, f.dcDisplay, f.dcCursor, f.dcBlink, f.fs8Bit, f.fs2Line, f.fs5x10], m ≠ 0) ∧
  f.setDdram &&& 0x7F = 0 ∧
  (commandRows f).Pairwise fun r q => (r.2 ^^^ q.2) &&& r.1 &&& q.1 ≠ 0

/-! ### A safe run -/

/-- What holds of an instance between operations, whatever its configuration, its host and its transport
did: the premise of claims that would fail in states no run reaches. The clauses on the bits of transport bytes
speak of the pin masks of R80. -/
structure BetweenOperations (s : State) : Prop where
  /-- Nothing is left to emit (R31). -/
  nothingToDo : s.todo = []
  /-- The bits of `EM` outside its flags are hardwired (R22; log 7): 0x04 under the mask 0xFC with the values of R5. -/
  emPrefix : s.em &&& ~~~ (s.cfg.family.emInc ||| s.cfg.family.emShift) =
    s.cfg.family.emDefault &&& ~~~ (s.cfg.family.emInc ||| s.cfg.family.emShift)
  /-- The bits of `DC` outside its flags are hardwired (R23; log 7): 0x08 under the mask 0xF8 with the values of R5. -/
  dcPrefix : s.dc &&& ~~~ (s.cfg.family.dcDisplay ||| s.cfg.family.dcCursor ||| s.cfg.family.dcBlink) =
    s.cfg.family.dcDefault &&& ~~~ (s.cfg.family.dcDisplay ||| s.cfg.family.dcCursor ||| s.cfg.family.dcBlink)
  /-- Before INIT nothing has happened and the registers hold their reset values (R130, R134, R136). -/
  beforeInit : s.phase = .unpowered →
    s.em = s.cfg.family.emDefault ∧ s.dc = s.cfg.family.dcDefault ∧ s.bl = false ∧ s.fault = false ∧
      s.trace = []
  /-- INIT leaves the two middle phases only by a failure (R135). -/
  lifecycle : s.fault = false → s.phase = .unpowered ∨ s.phase = .ready
  /-- An instance with an invalid configuration never begins (R186). -/
  configured : s.phase ≠ .unpowered → configValid s.cfg = true
  /-- `latch` is the last byte of a successful write, once there is one (R26). -/
  latchIsLast : ∀ b, (writtenBytes s.trace).getLast? = some b → s.latch = b
  /-- Once a write has succeeded and no access has failed, E is low, the direction is write, and bit 3 is
  the backlight (R26). -/
  pins : s.cfg.pins = standardPins → s.fault = false → writtenBytes s.trace ≠ [] →
    s.latch &&& 0x04 = 0 ∧ s.latch &&& 0x02 = 0 ∧ s.latch.getLsbD 3 = s.bl
  /-- `fault` records a failed access, which is the last event there ever is (R25, R190, R194). -/
  faultIsLast : if s.fault then (s.trace.getLast?.map Event.isFailure = some true) else
    ∀ e ∈ s.trace, e.isFailure = false
  /-- No event but the last is a failure (R194, R195). -/
  noEarlierFailure : ∀ e ∈ s.trace.dropLast, e.isFailure = false
  /-- Every byte written is in the write direction or of the read-mode form: never a data read (R84). -/
  formsOnly : s.cfg.pins = standardPins → ∀ b ∈ writtenBytes s.trace, b &&& 0x02 = 0 ∨ b &&& 0xF3 = 0xF2

end Sys2Proof.Machine
end

