-- ==== Sys2Proof/Certificates/Slice0/Obligations.lean ====
section
/-! DEFINITION. The statements for the provers. A rule is cited as R<n>; "model's choice" names the log entry.
`completed` and `advanced` (Safety.lean) change the fields they name and no other, so a result written with
them is also the instruction's frame. Results are in the names of the configuration's parameters and hold for
every value of them; where a statement has the spec's numbers, the parameters they rest on have the values of
R5 as a premise. Where the spec has a literal that equals a parameter of R5 (`bl << 3`, `rs`, the masks 0x03 and 0x07),
reading it as the parameter is the model's (log 7); with the values of R5 it is the spec's. -/

open Sys2Proof Sys2Proof.Machine

/-! ### Reset and step -/

/-- 70 section 1 (R37, R220, R221): reset is a new instance with the same configuration; its registers hold
the reset values, the shadows their defaults of the configuration, and it has sent nothing. What `latch` holds
is unspecified and not stated. The last clause is the model's choice (log 5): State.reset is a new instance with a
valid configuration. -/
def Obligations.NewInstanceHoldsTheResetValues : Prop :=
  (∀ c : Config,
    (State.newInstance c).cfg = c ∧
    (State.newInstance c).phase = .unpowered ∧
    (State.newInstance c).em = c.family.emDefault ∧
    (State.newInstance c).dc = c.family.dcDefault ∧
    (State.newInstance c).bl = false ∧
    (State.newInstance c).fault = false ∧
    (State.newInstance c).todo = [] ∧
    (State.newInstance c).trace = []) ∧
  ∃ c, State.reset = State.newInstance c ∧ configValid c = true

/-- 00 section 3 (R5; 10 section 2, 30 sections 1 and 2, 41 section 2): the parameters of the instance at reset whose
legal value is "fixed" have the values the spec gives, and the delays their defaults. All codes and flag bits but
CMD_SET_DDRAM, the shadow defaults, the handshake and its waits, T_EH and T_EL are decisions D8, D10, D11, D13. -/
def Obligations.ParametersHaveTheGivenValues : Prop :=
  let c := State.reset.cfg
  (c.pins.rs = 0x01 ∧ c.pins.rw = 0x02 ∧ c.pins.en = 0x04 ∧ c.pins.bl = 0x08) ∧
  (rowBase c.rowBases 0 = 0x00 ∧ rowBase c.rowBases 1 = 0x40 ∧ rowBase c.rowBases 2 = 0x14 ∧
    rowBase c.rowBases 3 = 0x54) ∧
  (c.family.clear = 0x01 ∧ c.family.home = 0x02) ∧
  (c.family.entryMode = 0x04 ∧ c.family.emInc = 0x02 ∧ c.family.emShift = 0x01 ∧ c.family.emDefault = 0x06) ∧
  (c.family.displayCtrl = 0x08 ∧ c.family.dcDisplay = 0x04 ∧ c.family.dcCursor = 0x02 ∧
    c.family.dcBlink = 0x01 ∧ c.family.dcDefault = 0x0C) ∧
  (c.family.functionSet = 0x20 ∧ c.family.fs8Bit = 0x10 ∧ c.family.fs2Line = 0x08 ∧ c.family.fs5x10 = 0x04) ∧
  c.family.setDdram = 0x80 ∧
  (c.init.tPower = 40000 ∧ c.init.tInit1 = 4100 ∧ c.init.tInit2 = 100 ∧ c.init.tInit3 = 100 ∧
    c.init.tInit4 = 100) ∧
  (c.init.nibble1 = 0x3 ∧ c.init.nibble2 = 0x3 ∧ c.init.nibble3 = 0x3 ∧ c.init.nibble4 = 0x2) ∧
  (c.commandDelay = 1550 ∧ c.dataDelay = 50 ∧ c.tEH = 1 ∧ c.tEL = 1 ∧ c.sim = false)

/-- The invariant of a safe run holds of every new instance, and at reset. -/
def Obligations.ResetIsBetweenOperations : Prop :=
  (∀ c : Config, BetweenOperations (State.newInstance c)) ∧ BetweenOperations State.reset

/-- A step runs the instruction the decoder reads where the block takes its next one: traffic of a running
operation first, then the oldest request, which leaves the port; with neither the block is idle (R201). Traffic is
decoded by the codes and masks of the configuration (R85). Traffic of none of the table's forms stops the machine
(model's choice, logs 10 and 13). -/
def Obligations.StepRunsTheFetchedInstruction : Prop :=
  (∀ (s : State) (w : RequestWord) (rest : List RequestWord),
    s.todo = [] → s.requests = w :: rest →
    step s = exec (decodeRequest w) { s with requests := rest }) ∧
  (∀ (s : State) (t : Traffic) (rest : List Traffic) (i : Instr),
    s.todo = t :: rest → decodeOf s.cfg.family s.cfg.pins t.code = .ok i →
    step s = exec i { s with todo := rest }) ∧
  (∀ (s : State) (t : Traffic) (rest : List Traffic) (e : DecodeError),
    s.todo = t :: rest → decodeOf s.cfg.family s.cfg.pins t.code = .error e →
    step s = .fault (.notAFormOfTheBlock t.code)) ∧
  (∀ s : State, s.todo = [] → s.requests = [] → step s = .next s)

/-! ### Encoding -/

/-- Words written out from the tables of 30_encoding.md and the vectors of 95_test_vectors.md. -/
def Obligations.KnownWordsDecode : Prop :=
  decode (.request 0x000000) = .ok .init ∧
  decode (.request 0x01D5AB) = .ok (.sendCmd 0xD5) ∧
  decode (.request 0x050314) = .ok (.setCursor 3 20) ∧
  decode (.request 0x05FF05) = .ok (.setCursor (-1) 5) ∧
  decode (.request 0x0F00C0) = .ok (.setBacklight 192) ∧
  decode (.request 0x0FFFFF) = .ok (.setBacklight (-1)) ∧
  decode (.request 0x110201) = .ok (.flagSet 2 1) ∧
  decode (.request 0x130000) = .ok (.reserved 0x13) ∧
  decode (.command 0x06) = .ok (.cmdEntryModeSet true false) ∧
  decode (.command 0x28) = .ok (.cmdFunctionSet false true false) ∧
  decode (.command 0xE7) = .ok (.cmdSetDDRAMAddress 0x67) ∧
  decode (.transport 0xDC) = .ok (.tbWrite 0xD true true false) ∧
  decode (.transport 0xFE) = .ok (.tbReadMode true true) ∧
  decode (.transport 0x08) = .ok (.tbBacklightOnly true)

/-- Decode and encode agree: every well-formed instruction, with every operand at every value its encoding
admits, is what the decoder reads from its code. -/
def Obligations.DecodeOfEncodeIsTheInstruction : Prop :=
  ∀ i : Instr, i.wellFormed = true → decode (encode i) = .ok i

/-- 30 section 2 (R85, decision D11): the command bytes round-trip with the codes and flag bits of any controller
family whose forms do not overlap, not only with the values of R5. -/
def Obligations.CommandBytesRoundTripInEveryFamily : Prop :=
  ∀ (f : Family) (p : Pins) (i : Instr) (b : Byte), familyDecodable f → encodeOf f p i = .command b →
    decodeOf f p (.command b) = .ok i

/-- The other direction: what the decoder reads is well formed, and its code is the code read, up to the
request bits its operation does not use (R91). -/
def Obligations.DecodedCodeIsWellFormedAndFaithful : Prop :=
  ∀ (c : Code) (i : Instr), decode c = .ok i →
    i.wellFormed = true ∧
    match c with
    | .request w => ∃ w', encode i = .request w' ∧ w' &&& usedBits i = w &&& usedBits i
    | .command _ | .transport _ => encode i = c

/-- Operand fields that an operation does not use are ignored (R91, decision D31): two words that agree on
the bits the first one's operation uses are the same request. -/
def Obligations.UnusedRequestBitsAreIgnored : Prop :=
  ∀ w w' : RequestWord,
    w &&& usedBits (decodeRequest w) = w' &&& usedBits (decodeRequest w) →
    decodeRequest w' = decodeRequest w

/-- R89: a byte split into nibbles and put together again is unchanged; 0xD5 is sent as three writes of 0xD, then
three of 0x5 (three writes each is decision D7). A status byte whose nibbles come back in bits 7:4 of two read bytes,
whatever their low bits, is unchanged too (R55). The pin masks are those of R80. -/
def Obligations.ByteSplitAndReassembledIsUnchanged : Prop :=
  (∀ v : Byte, nibbleBits (hiNibble v) ||| (loNibble v).setWidth 8 = v) ∧
  (∀ (v : Byte) (x y : Nibble),
    assembleStatus (nibbleBits (hiNibble v) ||| x.setWidth 8)
      (nibbleBits (loNibble v) ||| y.setWidth 8) = v) ∧
  hiNibble 0xD5 = 0xD ∧ loNibble 0xD5 = 0x5 ∧
  ∀ s : State, s.cfg.pins = standardPins → s.admitted .ready → s.accessesOk 6 →
    ∃ (t : State) (tr : List Event), exec (.sendCmd 0xD5) s = .next t ∧ t.trace = s.trace ++ tr ∧
      (writtenBytes tr).map hiNibble = [0xD, 0xD, 0xD, 0x5, 0x5, 0x5]

/-! ### The nibble sequencer -/

/-- R111: a nibble transfer is a payload write, then the strobe of the same byte; the byte is
`(n << 4) | (bl << 3) | rs`, the backlight read once. The pin masks are those of R80. -/
def Obligations.NibbleTransferIsPayloadThenStrobe : Prop :=
  ∀ (n : Nibble) (rs : RegisterSelect) (s : State) (b : Byte), s.cfg.pins = standardPins → s.accessesOk 3 →
    b = (n.setWidth 8 <<< 4) ||| ((BitVec.ofBool s.bl).setWidth 8 <<< 3) |||
      (match rs with | .command => 0x00 | .data => 0x01) →
    sendNibble n rs s = .done () (s.advanced
      [.write b, .write (b ||| 0x04), .delay s.cfg.tEH, .write b, .delay s.cfg.tEL] b 3)

/-- 40 section 2 (R114, R115): SEND_CMD and SEND_DATA send their byte as it is, write `latch` only and answer
OK with 0. -/
def Obligations.SendCommandAndSendDataResult : Prop :=
  ∀ (v : Byte) (s : State), s.admitted .ready → s.accessesOk 6 →
    exec (.sendCmd v) s =
      .next (s.completed (commandTrace s.cfg s.bl v) (lowByte s.cfg s.bl v 0x00) 6 0) ∧
    exec (.sendData v) s =
      .next (s.completed (dataTrace s.cfg s.bl v) (lowByte s.cfg s.bl v s.cfg.pins.rs) 6 0)

/-- 40 section 2 (R116, R117): CLEAR sends the command CMD_CLEAR, HOME the command CMD_HOME (0x01 and 0x02 with the
values of R5, from general knowledge, G2). -/
def Obligations.ClearAndHomeResult : Prop :=
  ∀ s : State, s.admitted .ready → s.accessesOk 6 →
    exec .clear s = .next (s.completed (commandTrace s.cfg s.bl s.cfg.family.clear)
      (lowByte s.cfg s.bl s.cfg.family.clear 0x00) 6 0) ∧
    exec .home s = .next (s.completed (commandTrace s.cfg s.bl s.cfg.family.home)
      (lowByte s.cfg s.bl s.cfg.family.home 0x00) 6 0)

/-- 40 section 3 (R118): the traces of one value sent as a command and as data have the same length, and differ
exactly in bit 0 of every byte written and in the last wait; each holds six writes, E high in the second of
each group of three only, R/W never. The pin masks are those of R80. -/
def Obligations.CommandAndDataTracesDifferInSelectAndSettle : Prop :=
  ∀ (v : Byte) (s : State), s.cfg.pins = standardPins → s.admitted .ready → s.accessesOk 6 →
    ∃ (t u : State) (w w' : List Byte) (e : List Event),
      exec (.sendCmd v) s = .next t ∧ exec (.sendData v) s = .next u ∧
      t.trace = s.trace ++ e ++ [.delay s.cfg.commandDelay] ∧
      u.trace = s.trace ++ e.map (fun ev => match ev with
        | .write b => .write (b ||| 0x01)
        | other => other) ++ [.delay s.cfg.dataDelay] ∧
      w = writtenBytes e ∧ w' = w.map (· ||| 0x01) ∧
      w.map (fun b => b.getLsbD 2) = [false, true, false, false, true, false] ∧
      ∀ b ∈ w, b.getLsbD 0 = false ∧ b.getLsbD 1 = false ∧ b.getLsbD 3 = s.bl

/-! ### The cursor mapper -/

/-- R140: with a valid configuration, each coordinate saturates at both ends, independently. -/
def Obligations.ResolveSaturatesAtBothEnds : Prop :=
  ∀ (c : Config) (row col : Int), configValid c = true →
    ((resolve c row col).1 : Int) = max 0 (min row (c.rows - 1)) ∧
    ((resolve c row col).2 : Int) = max 0 (min col (c.cols - 1))

/-- 42 section 1 (R141): the address of an in-range position is the row's base plus the column, an ordinary integer sum that
needs no truncation; the bases are 0x00, 0x40, 0x14, 0x54 (R27), and the command byte that carries the address is
0x80 plus it, without a carry (R7). -/
def Obligations.AddressIsRowBasePlusColumn : Prop :=
  (∀ (c : Config) (r k : Nat), configValid c = true → c.rowBases = standardRowBases →
    (r : Int) < c.rows → (k : Int) < c.cols →
    (addrOf c.rowBases r k).toNat = (rowBase c.rowBases r).toNat + k ∧
    (addrOf c.rowBases r k).toNat ≤ 0x7B ∧
    (setDdramByte standardFamily (addrOf c.rowBases r k)).toNat = 0x80 + (rowBase c.rowBases r).toNat + k) ∧
  rowBase standardRowBases 0 = 0x00 ∧ rowBase standardRowBases 1 = 0x40 ∧
  rowBase standardRowBases 2 = 0x14 ∧ rowBase standardRowBases 3 = 0x54

/-- 42 section 1 (R142): SET_CURSOR saturates the requested position, takes the home command at (0, 0) and
SetDDRAMAddress elsewhere, and answers the address, the row's base plus the column; every operand value is legal and
no address is kept. With the row bases of R5 the sum always fits (AddressIsRowBasePlusColumn); with others, where it is
above 0x7F, only that some address is sent and answered is stated (free, log 22). -/
def Obligations.SetCursorResult : Prop :=
  ∀ (row col : Byte) (s : State) (r k : Nat), s.admitted .ready → s.accessesOk 6 →
    (r : Int) = max 0 (min row.toInt (s.cfg.rows - 1)) →
    (k : Int) = max 0 (min col.toInt (s.cfg.cols - 1)) →
    ∃ a : DdramAddr,
      ((rowBase s.cfg.rowBases r).toNat + k ≤ 0x7F → a.toNat = (rowBase s.cfg.rowBases r).toNat + k) ∧
      let cmd : Byte := if r = 0 ∧ k = 0 then s.cfg.family.home else s.cfg.family.setDdram ||| a.setWidth 8
      exec (.setCursor row col) s = .next
        (s.completed (commandTrace s.cfg s.bl cmd) (lowByte s.cfg s.bl cmd 0x00) 6
          (if r = 0 ∧ k = 0 then 0 else a.setWidth 8))

/-- 42 section 3 (R146): of the rows below ROWS, RowOf gives the one with the greatest base that is at most the
address; it is an existing row. The base of row 0 is 0x00 (R27); the other bases may be any. -/
def Obligations.RowOfIsTheRowWithTheGreatestBaseBelow : Prop :=
  ∀ (c : Config) (a : DdramAddr), configValid c = true → c.rowBases.row0 = 0x00 →
    (rowOf c a : Int) < c.rows ∧ rowBase c.rowBases (rowOf c a) ≤ a ∧
    ∀ r : Nat, (r : Int) < c.rows → rowBase c.rowBases r ≤ a →
      rowBase c.rowBases r ≤ rowBase c.rowBases (rowOf c a)

/-- 42 section 4 (R149): RowOf undoes AddrOf on every in-range position exactly when ROWS <= 2 or COLS <= 20,
and exactly then no two in-range positions share an address. The bases are those of R27. -/
def Obligations.RowOfUndoesAddrOfExactlyWithoutOverlap : Prop :=
  ∀ c : Config, configValid c = true → c.rowBases = standardRowBases →
    ((∀ r k : Nat, (r : Int) < c.rows → (k : Int) < c.cols → rowOf c (addrOf c.rowBases r k) = r) ↔
      (c.rows ≤ 2 ∨ c.cols ≤ 20)) ∧
    ((∀ r k r' k' : Nat, (r : Int) < c.rows → (k : Int) < c.cols → (r' : Int) < c.rows →
        (k' : Int) < c.cols → addrOf c.rowBases r k = addrOf c.rowBases r' k' → r = r' ∧ k = k') ↔
      (c.rows ≤ 2 ∨ c.cols ≤ 20))

/-! ### The status readback -/

/-- 42 section 2 and 3 (R143, R144, R145, R147): GET_ADDR, IS_BUSY and GET_LINE make one status read, whatever
bytes it gets, and answer the whole status byte, its bit 7, and the row of its bits 6:0; `latch` is all they
write. The access sequence is decision D16's; the bytes are the oracle's or, where it gives none, free
(model's choice, logs 2 and 3). -/
def Obligations.StatusReadResults : Prop :=
  ∀ s : State, s.admitted .ready → s.accessesOk 8 →
    let after (v : Byte) : State :=
      { s.completed (statusTrace s.cfg s.bl s.statusReads.1 s.statusReads.2) (backlightBits s.cfg s.bl) 8 v with
        draws := s.drawsAfterStatus }
    exec .getAddr s = .next (after s.statusByte) ∧
    exec .isBusy s = .next (after (if s.statusByte.getLsbD 7 then 1 else 0)) ∧
    exec .getLine s = .next (after (BitVec.ofNat 8 (rowOf s.cfg (s.statusByte.extractLsb' 0 7))))

/-- 44 (R170, decision D18): NEXT_LINE reads the status, takes the row after the one read, circularly, and places
the cursor at its column 0: the home command for row 0, else SetDDRAMAddress of the row's base. -/
def Obligations.NextLineResult : Prop :=
  ∀ (s : State) (n : Nat), s.admitted .ready → s.accessesOk 14 →
    n = (rowOf s.cfg (s.statusByte.extractLsb' 0 7) + 1) % s.cfg.rows.toNat →
    let read := statusTrace s.cfg s.bl s.statusReads.1 s.statusReads.2
    let base : Byte := (rowBase s.cfg.rowBases n).setWidth 8
    let cmd : Byte := if n = 0 then s.cfg.family.home else s.cfg.family.setDdram ||| base
    exec .nextLine s = .next
      { s.completed (read ++ commandTrace s.cfg s.bl cmd) (lowByte s.cfg s.bl cmd 0x00) 14
          (if n = 0 then 0 else base) with
        draws := s.drawsAfterStatus }

/-- 44 (R170): NEXT_LINE does what GET_LINE followed by SET_CURSOR on the next row's column 0 does, to the trace and
to every register, and answers what that SET_CURSOR answers. -/
def Obligations.NextLineIsGetLineThenSetCursor : Prop :=
  ∀ (s t u : State) (row : Byte) (v : Byte), s.admitted .ready → s.accessesOk 14 →
    exec .getLine s = .next t → t.responses = s.responses ++ [⟨.ok, row⟩] →
    exec (.setCursor (BitVec.ofNat 8 ((row.toNat + 1) % s.cfg.rows.toNat)) 0) t = .next u →
    u.responses = t.responses ++ [⟨.ok, v⟩] →
    exec .nextLine s = .next { u with responses := s.responses ++ [⟨.ok, v⟩] }

/-- 20 section 2 (R52, R144): the low four bits of a read byte never reach a result. Whatever the instruction, two
runs whose transport answers differ only there answer the same, write the same bytes and leave the same
registers. -/
def Obligations.LowBitsOfReadBytesAreDiscarded : Prop :=
  ∀ (i : Instr) (s : State) (as : List Answer),
    List.Forall₂ (fun a b => match a, b with
      | .fail, .fail => True
      | .answered v, .answered w => v &&& 0xF0 = w &&& 0xF0
      | _, _ => False) s.answers as →
    ∃ t u : State, exec i s = .next t ∧ exec i { s with answers := as } = .next u ∧
      t.responses = u.responses ∧ writtenBytes t.trace = writtenBytes u.trace ∧
      t.phase = u.phase ∧ t.em = u.em ∧ t.dc = u.dc ∧ t.bl = u.bl ∧ t.fault = u.fault ∧
      t.latch = u.latch

/-- 60 section 5 (R200), 20 section 8 (R68): in simulation GET_ADDR answers the mock value, IS_BUSY its top bit,
GET_LINE the row of its low seven bits, whatever the oracle list holds, which is not consulted. -/
def Obligations.SimulationAnswersTheMock : Prop :=
  ∀ s : State, s.admitted .ready → s.cfg.sim = true →
    ∃ t u v : State,
      exec .getAddr s = .next t ∧ t.responses = s.responses ++ [⟨.ok, s.cfg.mockReadback⟩] ∧
      exec .isBusy s = .next u ∧
        u.responses = s.responses ++ [⟨.ok, if s.cfg.mockReadback.getLsbD 7 then 1 else 0⟩] ∧
      exec .getLine s = .next v ∧
        v.responses = s.responses ++
          [⟨.ok, BitVec.ofNat 8 (rowOf s.cfg (s.cfg.mockReadback.extractLsb' 0 7))⟩] ∧
      t.answers = s.answers ∧ u.answers = s.answers ∧ v.answers = s.answers

/-- 60 section 5 (R200), 20 section 8 (R68): in simulation no instruction sets `fault`, and no request answers
TRANSPORT_FAILURE. -/
def Obligations.NoTransportFailureInSimulation : Prop :=
  ∀ (i : Instr) (s t : State), s.cfg.sim = true → exec i s = .next t →
    t.fault = s.fault ∧
    ∀ v, t.responses ≠ s.responses ++ [⟨.transportFailure, v⟩]

/-! ### The shadow registers -/

/-- R155: FlagUpdate changes the masked bits of the shadow it names before anything is sent, keeps that value even
if the send fails, does not touch the other shadow, and sends the new shadow whole. For pin masks other than
R80's the bytes of the send rest on the model's reading (log 7). -/
def Obligations.FlagUpdateWritesTheShadowThenSendsItWhole : Prop :=
  ∀ (mask : Byte) (set : Bool) (s : State) (em' dc' : Byte),
    em' = (if set then s.em ||| mask else s.em &&& ~~~ mask) →
    dc' = (if set then s.dc ||| mask else s.dc &&& ~~~ mask) →
    (∀ t : State, (flagUpdate .entry mask set s = .done () t ∨ flagUpdate .entry mask set s = .failed t) →
      t.em = em' ∧ t.dc = s.dc) ∧
    (∀ t : State,
      (flagUpdate .display mask set s = .done () t ∨ flagUpdate .display mask set s = .failed t) →
      t.dc = dc' ∧ t.em = s.em) ∧
    (s.accessesOk 6 →
      flagUpdate .entry mask set s = .done ()
        { s.advanced (commandTrace s.cfg s.bl em') (lowByte s.cfg s.bl em' 0x00) 6 with em := em' } ∧
      flagUpdate .display mask set s = .done ()
        { s.advanced (commandTrace s.cfg s.bl dc') (lowByte s.cfg s.bl dc' 0x00) 6 with dc := dc' })

/-- 43 section 3 (R158 to R161): each changes its own flag of DC, sends the new DC whole and answers OK. The flags
are DC_CURSOR and DC_BLINK of the configuration (0x02 and 0x01 with the values of R5, from general knowledge, G3). -/
def Obligations.CursorAndBlinkResults : Prop :=
  ∀ s : State, s.admitted .ready → s.accessesOk 6 →
    let after (v : Byte) : State :=
      { s.completed (commandTrace s.cfg s.bl v) (lowByte s.cfg s.bl v 0x00) 6 0 with dc := v }
    exec .cursorOn s = .next (after (s.dc ||| s.cfg.family.dcCursor)) ∧
    exec .cursorOff s = .next (after (s.dc &&& ~~~ s.cfg.family.dcCursor)) ∧
    exec .blinkOn s = .next (after (s.dc ||| s.cfg.family.dcBlink)) ∧
    exec .blinkOff s = .next (after (s.dc &&& ~~~ s.cfg.family.dcBlink))

/-- 43 section 2 (R156, R157, decision D24): with a legal register and mask, the masked bits of EM or DC are set or
cleared, the shadow is sent whole, even when nothing changes, and nothing else is written. A mask is legal inside
the flags of the configuration (0x03 and 0x07 with the values of R5; for others the model's reading, log 7). -/
def Obligations.FlagSetAndFlagClearResults : Prop :=
  ∀ (mask : Byte) (s : State), s.admitted .ready → s.accessesOk 6 →
    let sent (v : Byte) : State := s.completed (commandTrace s.cfg s.bl v) (lowByte s.cfg s.bl v 0x00) 6 0
    (mask &&& ~~~ (s.cfg.family.emInc ||| s.cfg.family.emShift) = 0 →
      exec (.flagSet 0 mask) s = .next { sent (s.em ||| mask) with em := s.em ||| mask } ∧
      exec (.flagClr 0 mask) s = .next { sent (s.em &&& ~~~ mask) with em := s.em &&& ~~~ mask }) ∧
    (mask &&& ~~~ (s.cfg.family.dcDisplay ||| s.cfg.family.dcCursor ||| s.cfg.family.dcBlink) = 0 →
      exec (.flagSet 1 mask) s = .next { sent (s.dc ||| mask) with dc := s.dc ||| mask } ∧
      exec (.flagClr 1 mask) s = .next { sent (s.dc &&& ~~~ mask) with dc := s.dc &&& ~~~ mask })

/-- 43 section 3 (R162, R163, order by decision D15): DISPLAY_ON sets the display bit and sends DC with the old
backlight, then switches the light on; DISPLAY_OFF switches the light off, then clears the bit and sends DC. -/
def Obligations.DisplayOnAndOffResults : Prop :=
  ∀ (s : State) (on off : Byte), s.admitted .ready → s.accessesOk 7 →
    on = s.dc ||| s.cfg.family.dcDisplay → off = s.dc &&& ~~~ s.cfg.family.dcDisplay →
    exec .displayOn s = .next
      { s.completed (commandTrace s.cfg s.bl on ++ [.write s.cfg.pins.bl]) s.cfg.pins.bl 7 0 with
        dc := on, bl := true } ∧
    exec .displayOff s = .next
      { s.completed ([.write 0x00] ++ commandTrace s.cfg false off) (lowByte s.cfg false off 0x00) 7 0 with
        dc := off, bl := false }

/-- 43 section 3 and 60 section 3 (R162, R163, R194): what stands when DISPLAY_ON or DISPLAY_OFF is cut at its access
number k, counted from 0. -/
def Obligations.DisplayOnAndOffCutKeepWhatWasDone : Prop :=
  ∀ (s : State) (before rest : List Answer), s.admitted .ready → s.cfg.sim = false →
    s.answers = before ++ .fail :: rest → Answer.fail ∉ before → before.length < 7 →
    ∃ t u : State, exec .displayOn s = .next t ∧ exec .displayOff s = .next u ∧
      t.dc = s.dc ||| s.cfg.family.dcDisplay ∧ t.bl = (if before.length = 6 then true else s.bl) ∧
      u.bl = false ∧ u.dc = (if before.length = 0 then s.dc else s.dc &&& ~~~ s.cfg.family.dcDisplay) ∧
      t.fault = true ∧ u.fault = true ∧ t.em = s.em ∧ u.em = s.em ∧
      t.responses = s.responses ++ [⟨.transportFailure, 0⟩] ∧
      u.responses = s.responses ++ [⟨.transportFailure, 0⟩]

/-- 43 section 4 (R165, conflict C4): CURSOR_ON then CURSOR_OFF brings DC back exactly when the cursor flag was 0,
CURSOR_OFF then CURSOR_ON exactly when it was 1; the same for the blink flag. -/
def Obligations.FlagPairsRoundTripExactlyWhen : Prop :=
  ∀ s : State, s.admitted .ready → s.accessesOk 12 →
    ∃ a b c d a' b' c' d' : State,
      (exec .cursorOn s = .next a ∧ exec .cursorOff a = .next a' ∧
        (a'.dc = s.dc ↔ s.dc &&& s.cfg.family.dcCursor = 0)) ∧
      (exec .cursorOff s = .next b ∧ exec .cursorOn b = .next b' ∧
        (b'.dc = s.dc ↔ s.dc &&& s.cfg.family.dcCursor = s.cfg.family.dcCursor)) ∧
      (exec .blinkOn s = .next c ∧ exec .blinkOff c = .next c' ∧
        (c'.dc = s.dc ↔ s.dc &&& s.cfg.family.dcBlink = 0)) ∧
      (exec .blinkOff s = .next d ∧ exec .blinkOn d = .next d' ∧
        (d'.dc = s.dc ↔ s.dc &&& s.cfg.family.dcBlink = s.cfg.family.dcBlink))

/-- 43 section 4 (R166): a named flag operation twice leaves the shadows and the backlight as once; and two of them
on different flags lead to the same DC and EM in either order. The flags are distinct (G3). -/
def Obligations.FlagOperationsAreIdempotentAndCommute : Prop :=
  ∀ (i j : Instr) (s : State), familyDistinct s.cfg.family → s.admitted .ready → s.accessesOk 14 →
    i ∈ [Instr.cursorOn, .cursorOff, .blinkOn, .blinkOff, .displayOn, .displayOff] →
    j ∈ [Instr.cursorOn, .cursorOff, .blinkOn, .blinkOff, .displayOn, .displayOff] →
    ∃ a b ab ba aa : State,
      exec i s = .next a ∧ exec j s = .next b ∧ exec j a = .next ab ∧ exec i b = .next ba ∧
      exec i a = .next aa ∧ aa.dc = a.dc ∧ aa.em = a.em ∧ aa.bl = a.bl ∧
      ((i = .cursorOn ∨ i = .cursorOff) → (j = .blinkOn ∨ j = .blinkOff ∨ j = .displayOn ∨ j = .displayOff) →
        ab.dc = ba.dc ∧ ab.em = ba.em ∧ ab.bl = ba.bl) ∧
      ((i = .blinkOn ∨ i = .blinkOff) → (j = .displayOn ∨ j = .displayOff) →
        ab.dc = ba.dc ∧ ab.em = ba.em ∧ ab.bl = ba.bl)

/-- 43 section 4 (R167): from a state between operations, FLAG_CLR of every flag then FLAG_SET reaches each of the
eight values 0x08..0x0F of DC and each of the four values 0x04..0x07 of EM; by the invariant there are no
others. -/
def Obligations.EveryShadowValueIsReachable : Prop :=
  ∀ (s : State) (v : Byte), s.cfg.family = standardFamily → BetweenOperations s →
    s.admitted .ready → s.accessesOk 12 →
    (0x08 ≤ v → v ≤ 0x0F → ∃ t u : State,
      exec (.flagClr 1 0x07) s = .next t ∧ exec (.flagSet 1 (v &&& 0x07)) t = .next u ∧ u.dc = v ∧
      u.em = s.em) ∧
    (0x04 ≤ v → v ≤ 0x07 → ∃ t u : State,
      exec (.flagClr 0 0x03) s = .next t ∧ exec (.flagSet 0 (v &&& 0x03)) t = .next u ∧ u.em = v ∧
      u.dc = s.dc) ∧
    (0x08 ≤ s.dc ∧ s.dc ≤ 0x0F) ∧ (0x04 ≤ s.em ∧ s.em ≤ 0x07)

/-- 30 section 2 and 00 section 3 (R85, R5, decision D11): whatever the codes and flag bits of the configuration, a
request that is one command send does what SEND_CMD of its byte does on the state with the shadow already written, run
to its end or cut: CLEAR, HOME, CURSOR_ON and OFF, BLINK_ON and OFF, FLAG_SET and FLAG_CLR with any legal mask. So does
SET_CURSOR, at (0, 0) and elsewhere, but for the answer OK, which carries the address. No others are one command send:
DISPLAY_ON, DISPLAY_OFF, NEXT_LINE and INIT, the only one that sends FunctionSet, have statements of their own. Legal
masks for values other than R5's: log 7. -/
def Obligations.CommandOperationsSendTheConfiguredBytes : Prop :=
  ∀ s : State,
    let f := s.cfg.family
    exec .clear s = exec (.sendCmd f.clear) s ∧ exec .home s = exec (.sendCmd f.home) s ∧
    (s.admitted .ready →
      let sendEM (v : Byte) := exec (.sendCmd v) { s with em := v }
      let sendDC (v : Byte) := exec (.sendCmd v) { s with dc := v }
      exec .cursorOn s = sendDC (s.dc ||| f.dcCursor) ∧ exec .cursorOff s = sendDC (s.dc &&& ~~~ f.dcCursor) ∧
      exec .blinkOn s = sendDC (s.dc ||| f.dcBlink) ∧ exec .blinkOff s = sendDC (s.dc &&& ~~~ f.dcBlink) ∧
      (∀ mask : Byte, mask &&& ~~~ (f.emInc ||| f.emShift) = 0 →
        exec (.flagSet 0 mask) s = sendEM (s.em ||| mask) ∧
        exec (.flagClr 0 mask) s = sendEM (s.em &&& ~~~ mask)) ∧
      (∀ mask : Byte, mask &&& ~~~ (f.dcDisplay ||| f.dcCursor ||| f.dcBlink) = 0 →
        exec (.flagSet 1 mask) s = sendDC (s.dc ||| mask) ∧
        exec (.flagClr 1 mask) s = sendDC (s.dc &&& ~~~ mask)) ∧
      ∀ (row col : Byte) (r k : Nat),
        (r : Int) = max 0 (min row.toInt (s.cfg.rows - 1)) → (k : Int) = max 0 (min col.toInt (s.cfg.cols - 1)) →
        let a : Byte := if r = 0 ∧ k = 0 then 0 else (addrOf s.cfg.rowBases r k).setWidth 8
        let cmd : Byte := if r = 0 ∧ k = 0 then f.home else f.setDdram ||| a
        ∃ t : State, exec (.sendCmd cmd) s = .next t ∧
          exec (.setCursor row col) s =
            .next (if t.fault then t else { t with responses := s.responses ++ [⟨.ok, a⟩] }))

/-! ### The backlight -/

/-- 45 (R181): SET_BACKLIGHT, its encoding, its result (on for a positive signed value, off for every other: decision
D32; the byte, decision D14's `bl << 3`, is the mask BL of the configuration: log 7); 60 sections 1 and 3: its refusals and their order (decisions D20, D21, D22) and its
cut, which leaves `bl` assigned (R180, R194). -/
def Obligations.SetBacklightWhole : Prop :=
  (∀ a b : Byte, decodeRequest (packRequest 0x0F a b) = .setBacklight (a ++ b)) ∧
  (∀ (value : BitVec 16) (s : State),
    (configValid s.cfg = false → exec (.setBacklight value) s =
      .next { s with responses := s.responses ++ [⟨.configError, 0⟩] }) ∧
    (configValid s.cfg = true → s.fault = true → exec (.setBacklight value) s =
      .next { s with responses := s.responses ++ [⟨.faulted, 0⟩] }) ∧
    (configValid s.cfg = true → s.fault = false → s.phase ≠ .ready → exec (.setBacklight value) s =
      .next { s with responses := s.responses ++ [⟨.notReady, 0⟩] }) ∧
    (s.admitted .ready → s.accessesOk 1 → exec (.setBacklight value) s =
      if 0 < value.toInt then
        .next { s.completed [.write s.cfg.pins.bl] s.cfg.pins.bl 1 0 with bl := true }
      else
        .next { s.completed [.write 0x00] 0x00 1 0 with bl := false }) ∧
    (∀ rest : List Answer, s.admitted .ready → s.cfg.sim = false → s.answers = .fail :: rest →
      exec (.setBacklight value) s = .next { s with
        bl := decide (0 < value.toInt)
        fault := true
        trace := s.trace ++ [.writeFail (if 0 < value.toInt then s.cfg.pins.bl else 0x00)]
        answers := rest
        responses := s.responses ++ [⟨.transportFailure, 0⟩] }))

/-- 45 (R182): every byte a request writes, even one whose write fails, has bit 3 equal to the backlight at the
moment it is formed. SET_BACKLIGHT and DISPLAY_OFF set it before their first write, DISPLAY_ON after its sixth, INIT after
its thirtieth, so never inside a nibble transfer, a byte send or a status read; no other request changes it. Where
the counts 6 and 30 stand rests on decisions D5, D7, D10 and D15. Traffic that runs by itself carries the bit it is
given (log 10) and is not spoken of. -/
def Obligations.EveryWrittenByteCarriesTheBacklight : Prop :=
  ∀ (i : Instr) (s t : State) (tr : List Event), s.cfg.pins = standardPins → isRequest i = true →
    exec i s = .next t → t.trace = s.trace ++ tr →
    match i with
    | .displayOff | .setBacklight _ => ∀ b ∈ formedBytes tr, b.getLsbD 3 = t.bl
    | .displayOn =>
      (∀ b ∈ (formedBytes tr).take 6, b.getLsbD 3 = s.bl) ∧
      ∀ b ∈ (formedBytes tr).drop 6, b.getLsbD 3 = true ∧ t.bl = true
    | .init =>
      (∀ b ∈ (formedBytes tr).take 30, b.getLsbD 3 = s.bl) ∧
      ∀ b ∈ (formedBytes tr).drop 30, b.getLsbD 3 = true ∧ t.bl = true
    | _ => t.bl = s.bl ∧ ∀ b ∈ formedBytes tr, b.getLsbD 3 = s.bl

/-! ### Initialisation -/

/-- 41 section 2 (R131, R133, R134): INIT's whole trace and result, from any admitted state and with any waits,
nibbles and command codes: the shadows are sent and not written, the backlight is on at the end, `phase` is READY. -/
def Obligations.InitResult : Prop :=
  ∀ s : State, s.admitted .unpowered → s.accessesOk 37 →
    exec .init s = .next
      { s.completed (initTrace s.cfg s.bl s.em s.dc) (lowByte s.cfg true s.cfg.family.clear 0x00) 37 0 with
        phase := .ready, bl := true }

/-- 41 section 2 (R137) and 10 section 5 (R38): INIT of a new instance with more than one row and the default times,
event by event; 37 writes, none of which fails: a new instance has no scripted answer, and a write that is not
scripted is ok by the model's choice (log 2). The handshake values, command values and times rest on D8, D10, D11,
D13. One row is InitResult's. -/
def Obligations.InitOfANewInstanceIsTheWorkedTrace : Prop :=
  ∀ c : Config, configStandard c → configValid c = true → 1 < c.rows →
    c.commandDelay = 1550 → c.tEH = 1 → c.tEL = 1 →
    ∃ t : State, exec .init (State.newInstance c) = .next t ∧
      t.phase = .ready ∧ t.em = 0x06 ∧ t.dc = 0x0C ∧ t.bl = true ∧ t.fault = false ∧ t.latch = 0x18 ∧
      t.responses = [⟨.ok, 0⟩] ∧ (writtenBytes t.trace).length = 37 ∧
      t.trace =
        [.delay 40000,
          .write 0x30, .write 0x34, .delay 1, .write 0x30, .delay 1, .delay 4100,
          .write 0x30, .write 0x34, .delay 1, .write 0x30, .delay 1, .delay 100,
          .write 0x30, .write 0x34, .delay 1, .write 0x30, .delay 1, .delay 100,
          .write 0x20, .write 0x24, .delay 1, .write 0x20, .delay 1, .delay 100,
          .write 0x20, .write 0x24, .delay 1, .write 0x20, .delay 1,
          .write 0x80, .write 0x84, .delay 1, .write 0x80, .delay 1, .delay 1550,
          .write 0x00, .write 0x04, .delay 1, .write 0x00, .delay 1,
          .write 0x60, .write 0x64, .delay 1, .write 0x60, .delay 1, .delay 1550,
          .write 0x00, .write 0x04, .delay 1, .write 0x00, .delay 1,
          .write 0xC0, .write 0xC4, .delay 1, .write 0xC0, .delay 1, .delay 1550,
          .write 0x08,
          .write 0x08, .write 0x0C, .delay 1, .write 0x08, .delay 1,
          .write 0x18, .write 0x1C, .delay 1, .write 0x18, .delay 1, .delay 1550]

/-- 41 section 2 (R135): INIT cut at its access number k, counted from 0: `phase` is left at the last value written,
`bl` is 1 only if the failure came after SetBacklight's assignment, and every later request answers FAULTED: any
request that runs next, and all that wait on the port, however many. Which access is number 12 and which number 30
rests on INIT's sequence (decisions D5, D7, D10), FAULTED on D21. -/
def Obligations.InitCutLeavesADeadInstance : Prop :=
  ∀ (s : State) (before rest : List Answer), s.admitted .unpowered → s.cfg.sim = false →
    s.answers = before ++ .fail :: rest → Answer.fail ∉ before → before.length < 37 →
    ∃ t : State, exec .init s = .next t ∧
      t.fault = true ∧ t.responses = s.responses ++ [⟨.transportFailure, 0⟩] ∧
      t.phase = (if before.length < 12 then .resetPending else .functionLocked) ∧
      t.bl = (if before.length < 30 then s.bl else true) ∧ t.em = s.em ∧ t.dc = s.dc ∧
      (∀ i : Instr, isRequest i = true →
        exec i t = .next { t with responses := t.responses ++ [⟨.faulted, 0⟩] }) ∧
      (s.todo = [] → ∀ (ws : List RequestWord) (k : Nat),
        Sys2Proof.core.run k { t with requests := ws } = .next
          { t with
            requests := ws.drop k
            responses := t.responses ++ List.replicate (min k ws.length) ⟨.faulted, 0⟩ })

/-! ### Admission and failures -/

/-- 60 section 3 (R193, order by decision D22; R186, R188, R189, R190): every request is refused by the first check
that fires, in this order, with no event and no register changed. The legal masks are the flags of the configuration
(for values other than R5's the model's reading, log 7). -/
def Obligations.AdmissionOrderAndNoEffect : Prop :=
  ∀ (i : Instr) (s : State), isRequest i = true →
    (configValid s.cfg = false →
      exec i s = .next { s with responses := s.responses ++ [⟨.configError, 0⟩] }) ∧
    (configValid s.cfg = true → s.fault = true →
      exec i s = .next { s with responses := s.responses ++ [⟨.faulted, 0⟩] }) ∧
    (configValid s.cfg = true → s.fault = false → ¬ requestLegal s.cfg.family i →
      exec i s = .next { s with responses := s.responses ++ [⟨.illegalRequest, 0⟩] }) ∧
    (configValid s.cfg = true → s.fault = false → requestLegal s.cfg.family i → s.phase ≠ neededPhase i →
      exec i s = .next { s with responses := s.responses ++ [⟨.notReady, 0⟩] })

/-- 30 section 4 (R95, decision D22): every word with a code from 0x13 up is reserved, and its one effect is the
answer ILLEGAL_REQUEST. -/
def Obligations.ReservedRequestsAnswerIllegal : Prop :=
  (∀ w : RequestWord, 0x13 ≤ w.extractLsb' 16 8 → decodeRequest w = .reserved (w.extractLsb' 16 8)) ∧
  (∀ (op : Byte) (s : State), configValid s.cfg = true → s.fault = false →
    exec (.reserved op) s = .next { s with responses := s.responses ++ [⟨.illegalRequest, 0⟩] })

/-- 60 section 1 (R186, decision D20): an instance with an invalid configuration is inert for ever: however many
requests it takes, each answers CONFIG_ERROR and nothing else changes. -/
def Obligations.InvalidConfigurationIsInertForEver : Prop :=
  ∀ (s : State) (k : Nat), s.todo = [] → configValid s.cfg = false →
    Sys2Proof.core.run k s = .next
      { s with
        requests := s.requests.drop k
        responses := s.responses ++ List.replicate (min k s.requests.length) ⟨.configError, 0⟩ }

/-- 60 section 1 (R190, R195, decision D21): once `fault` is 1, however many requests the instance takes, each answers
FAULTED and nothing else changes: nothing clears the bit. -/
def Obligations.FaultIsForEver : Prop :=
  ∀ (s : State) (k : Nat), s.todo = [] → configValid s.cfg = true → s.fault = true →
    Sys2Proof.core.run k s = .next
      { s with
        requests := s.requests.drop k
        responses := s.responses ++ List.replicate (min k s.requests.length) ⟨.faulted, 0⟩ }

/-- 60 section 3 (R194): a transport failure is precise at the granularity of events. Take any admitted legal request
and let `tr` be its trace with the transport answering as `before` says and then without failing (a write past the
list is ok by the model's choice, log 2). If access
number k = `before.length` of the operation fails, exactly the events of `tr` before it have happened, then the
failure, and none after it; `fault` is set, `latch` keeps the last byte written, the answer is
TRANSPORT_FAILURE with 0. If the operation has no access number k, the failure is not met. -/
def Obligations.TransportFailureIsPrecise : Prop :=
  ∀ (i : Instr) (s : State) (before rest : List Answer),
    isRequest i = true → requestLegal s.cfg.family i → s.admitted (neededPhase i) → s.cfg.sim = false →
    Answer.fail ∉ before →
    ∃ (t u : State) (tr : List Event) (v : Byte),
      exec i { s with answers := before } = .next t ∧
      t.trace = s.trace ++ tr ∧ t.fault = false ∧ t.responses = s.responses ++ [⟨.ok, v⟩] ∧
      (∀ e ∈ tr, e.isFailure = false) ∧
      exec i { s with answers := before ++ .fail :: rest } = .next u ∧
      u.cfg = s.cfg ∧ u.todo = s.todo ∧ u.requests = s.requests ∧
      if before.length < accesses tr then
        u.trace = s.trace ++ cutAt before.length tr ∧ u.fault = true ∧ u.answers = rest ∧
        u.latch = ((writtenBytes (cutAt before.length tr)).getLast?).getD s.latch ∧
        u.responses = s.responses ++ [⟨.transportFailure, 0⟩]
      else
        u = { t with answers := t.answers ++ .fail :: rest }

/-! ### The whole machine -/

/-- The invariant of a safe run is kept by every step, whatever the request, the configuration and the transport's
answers: hardwired bits (R22, R23), lifecycle (R130, R134, R135), pins and latch (R26), failures (R25, R194,
R195), forms written (R84), nothing left to do (R31). -/
def Obligations.StepKeepsBetweenOperations : Prop :=
  ∀ s s' : State, BetweenOperations s → step s = .next s' → BetweenOperations s'

/-- 10 section 1 (R20, the "written by" column; R25, R26, R28, R34): a register changes only in the operations that
name it: `latch` is the last byte successfully written, `fault` is set only by a failed access, which is the last
event, and is never cleared, the configuration is written by none. The trace and the responses are only appended to,
what is waiting is left alone. -/
def Obligations.RegistersHaveOnlyTheirWriters : Prop :=
  ∀ (i : Instr) (s t : State), exec i s = .next t →
    t.cfg = s.cfg ∧ t.todo = s.todo ∧ t.requests = s.requests ∧ s.responses <+: t.responses ∧
    (∃ tr : List Event, t.trace = s.trace ++ tr ∧
      t.latch = ((writtenBytes tr).getLast?).getD s.latch ∧
      (t.fault = true ↔ s.fault = true ∨ tr.getLast?.map Event.isFailure = some true)) ∧
    (t.phase ≠ s.phase → i = .init) ∧
    (t.em ≠ s.em → ∃ mask, i = .flagSet 0 mask ∨ i = .flagClr 0 mask) ∧
    (t.dc ≠ s.dc → i ∈ [Instr.cursorOn, .cursorOff, .blinkOn, .blinkOff, .displayOn, .displayOff] ∨
      ∃ mask, i = .flagSet 1 mask ∨ i = .flagClr 1 mask) ∧
    (t.bl ≠ s.bl → i ∈ [Instr.init, .displayOn, .displayOff] ∨ ∃ value, i = .setBacklight value)

/-- 10 section 2 and 41 section 1 (R21, R130): the lifecycle has no way back, and READY is final. -/
def Obligations.PhaseNeverGoesBack : Prop :=
  ∀ s s' : State, step s = .next s' →
    s.phase.code ≤ s'.phase.code ∧ (s.phase = .ready → s'.phase = .ready) ∧
    (s'.phase ≠ s.phase → s.phase = .unpowered)

/-- 40 section 1 (R113, decision D34): requests waiting on the port are neither refused for waiting nor dropped: in as
many steps as there are requests, none stopping the machine, each is accepted and answered once, and what was
recorded before stays. -/
def Obligations.EveryWaitingRequestIsAnswered : Prop :=
  ∀ s : State, s.todo = [] →
    ∃ t : State, Sys2Proof.core.run s.requests.length s = .next t ∧
      t.requests = [] ∧ t.todo = [] ∧
      t.responses.length = s.responses.length + s.requests.length ∧
      s.responses <+: t.responses ∧ s.trace <+: t.trace

/-- 70 section 4 (R234): the waits of an operation that ends OK, summed: one command send, one data send, one status
read, NEXT_LINE and INIT. -/
def Obligations.WaitsAreTheTimingTable : Prop :=
  ∀ (v : Byte) (s a b c d : State) (tr₁ tr₂ tr₃ tr₄ : List Event), s.admitted .ready → s.accessesOk 14 →
    exec (.sendCmd v) s = .next a → a.trace = s.trace ++ tr₁ →
    exec (.sendData v) s = .next b → b.trace = s.trace ++ tr₂ →
    exec .getAddr s = .next c → c.trace = s.trace ++ tr₃ →
    exec .nextLine s = .next d → d.trace = s.trace ++ tr₄ →
    waits tr₁ = 2 * (s.cfg.tEH + s.cfg.tEL) + s.cfg.commandDelay ∧
    waits tr₂ = 2 * (s.cfg.tEH + s.cfg.tEL) + s.cfg.dataDelay ∧
    waits tr₃ = 2 * (s.cfg.tEH + s.cfg.tEL) ∧
    waits tr₄ = waits tr₃ + waits tr₁ ∧
    ∀ u t : State, u.cfg = s.cfg → u.admitted .unpowered → u.accessesOk 37 → exec .init u = .next t →
      ∃ tr, t.trace = u.trace ++ tr ∧
        waits tr = s.cfg.init.tPower + 4 * (s.cfg.tEH + s.cfg.tEL) + s.cfg.init.tInit1 + s.cfg.init.tInit2 +
          s.cfg.init.tInit3 + s.cfg.init.tInit4 + 4 * waits tr₁

/-! ### Traffic of a running operation -/

/-- 30 section 2 (R85, R86, R112): each command byte of the block goes out as two nibbles with RS = 0 and the command
settle time; nothing else changes and nothing is answered. That such a byte runs by itself is the model's
choice (log 10). -/
def Obligations.CommandBytesGoOutAsTwoNibbles : Prop :=
  ∀ (s : State) (p q r : Bool) (a : DdramAddr),
    configValid s.cfg = true → s.fault = false → s.accessesOk 6 →
    let f := s.cfg.family
    let sent (v : Byte) : State := s.advanced (commandTrace s.cfg s.bl v) (lowByte s.cfg s.bl v 0x00) 6
    exec .cmdClearDisplay s = .next (sent f.clear) ∧
    exec .cmdReturnHome s = .next (sent f.home) ∧
    exec (.cmdEntryModeSet p q) s =
      .next (sent (f.entryMode ||| (if p then f.emInc else 0) ||| (if q then f.emShift else 0))) ∧
    exec (.cmdDisplayControl p q r) s =
      .next (sent (f.displayCtrl ||| (if p then f.dcDisplay else 0) ||| (if q then f.dcCursor else 0) |||
        (if r then f.dcBlink else 0))) ∧
    exec (.cmdFunctionSet p q r) s =
      .next (sent (f.functionSet ||| (if p then f.fs8Bit else 0) ||| (if q then f.fs2Line else 0) |||
        (if r then f.fs5x10 else 0))) ∧
    exec (.cmdSetDDRAMAddress a) s = .next (sent (f.setDdram ||| a.setWidth 8))

/-- 30 section 1 (R81, R82, R83) and 20 section 2 (R51): each transport byte of the block is one checked write of that
byte. That such a byte runs by itself is the model's choice (log 10). -/
def Obligations.TransportBytesAreOneWrite : Prop :=
  ∀ (s : State) (n : Nibble) (b e r : Bool),
    s.cfg.pins = standardPins → configValid s.cfg = true → s.fault = false → s.accessesOk 1 →
    let written (v : Byte) : State := s.advanced [.write v] v 1
    exec (.tbWrite n b e r) s =
      .next (written (BitVec.ofNat 8
        (16 * n.toNat + (if b then 8 else 0) + (if e then 4 else 0) + (if r then 1 else 0)))) ∧
    exec (.tbReadMode b e) s =
      .next (written (0xF2 ||| (if b then 0x08 else 0) ||| (if e then 0x04 else 0))) ∧
    exec (.tbBacklightOnly b) s = .next (written (if b then 0x08 else 0x00))

/-- 60 section 1 and 3 (R186, R194), 70 section 3 (R226): an instance whose configuration is invalid or whose fault is
set sends nothing more, not even the rest of an operation. That nothing is answered is the model's choice
(log 10). -/
def Obligations.DeadInstanceSendsNoTraffic : Prop :=
  ∀ (i : Instr) (s : State), isRequest i = false → (configValid s.cfg = false ∨ s.fault = true) →
    exec i s = .next s

/-! ### Pseudo-instructions -/

/-- R172, R175: PRINTLN is the expansion of PRINT followed by one NEXT_LINE, a bare NEXT_LINE for the empty text;
WRITE is one SEND_DATA, of a number or a quoted character. The words of `PRINTLN "Hi"` are the rule's. -/
def Obligations.PrintLineIsPrintThenNextLine : Prop :=
  (∀ (text : List Nat) (is : List Instr), expandLine (.print text) = some is →
    expandLine (.println text) = some (is ++ [.nextLine])) ∧
  (∀ text : List Nat, expandLine (.print text) = none → expandLine (.println text) = none) ∧
  expandLine (.println []) = some [.nextLine] ∧
  assembleLine (.println [0x48, 0x69]) = some [0x024800, 0x026900, 0x100000] ∧
  (∀ c : Byte, expandLine (.write (.number c.toNat)) = some [.sendData c] ∧
    expandLine (.write (.character c.toNat)) = some [.sendData c])

/-- 44 (R171, R173): a text is one SEND_DATA per character, in order, never clipped and never wrapped, when every code
is at most 255; a text with a larger code is refused whole (decision D26). -/
def Obligations.TextIsOneSendDataPerCharacter : Prop :=
  ∀ text : List Nat,
    ((∀ c ∈ text, c ≤ 255) →
      expandLine (.print text) = some (text.map fun c => .sendData (BitVec.ofNat 8 c))) ∧
    ((∃ c ∈ text, 255 < c) → expandLine (.print text) = none)

/-- 30 sections 3 and 5 (R93, R98, R99): which request, in which word, each of the 19 mnemonics stands for, with every
operand value its field holds; a quoted character stands for its code, ENTRY and DISPLAY for `reg` 0 and 1. Whatever
the line, its words decode to the requests it stands for. Only the operand forms R98 shows are spoken of; the rest is
the model's choice (log 20). -/
def Obligations.AssembledWordsDecodeToTheLine : Prop :=
  let standsFor (op : AsmOp) (operands : List AsmOperand) (i : Instr) (w : RequestWord) : Prop :=
    expandLine (.request op operands) = some [i] ∧ assembleLine (.request op operands) = some [w]
  (standsFor .init [] .init 0x000000 ∧ standsFor .clear [] .clear 0x030000 ∧ standsFor .home [] .home 0x040000 ∧
    standsFor .getAddr [] .getAddr 0x060000 ∧ standsFor .getLine [] .getLine 0x070000 ∧
    standsFor .isBusy [] .isBusy 0x080000 ∧ standsFor .cursorOn [] .cursorOn 0x090000 ∧
    standsFor .cursorOff [] .cursorOff 0x0A0000 ∧ standsFor .blinkOn [] .blinkOn 0x0B0000 ∧
    standsFor .blinkOff [] .blinkOff 0x0C0000 ∧ standsFor .displayOn [] .displayOn 0x0D0000 ∧
    standsFor .displayOff [] .displayOff 0x0E0000 ∧ standsFor .nextLine [] .nextLine 0x100000) ∧
  (∀ v : Byte,
    standsFor .sendCmd [.number v.toNat] (.sendCmd v) (0x01#8 ++ v ++ 0x00#8) ∧
    standsFor .sendData [.number v.toNat] (.sendData v) (0x02#8 ++ v ++ 0x00#8) ∧
    standsFor .sendData [.character v.toNat] (.sendData v) (0x02#8 ++ v ++ 0x00#8)) ∧
  (∀ row col : Int, -128 ≤ row → row ≤ 127 → -128 ≤ col → col ≤ 127 →
    standsFor .setCursor [.number row, .number col] (.setCursor (BitVec.ofInt 8 row) (BitVec.ofInt 8 col))
      (0x05#8 ++ BitVec.ofInt 8 row ++ BitVec.ofInt 8 col)) ∧
  (∀ value : Int, -32768 ≤ value → value ≤ 32767 →
    standsFor .setBacklight [.number value] (.setBacklight (BitVec.ofInt 16 value)) (0x0F#8 ++ BitVec.ofInt 16 value)) ∧
  (∀ mask : Byte,
    standsFor .flagSet [.entry, .number mask.toNat] (.flagSet 0 mask) (0x1100#16 ++ mask) ∧
    standsFor .flagSet [.display, .number mask.toNat] (.flagSet 1 mask) (0x1101#16 ++ mask) ∧
    standsFor .flagClr [.entry, .number mask.toNat] (.flagClr 0 mask) (0x1200#16 ++ mask) ∧
    standsFor .flagClr [.display, .number mask.toNat] (.flagClr 1 mask) (0x1201#16 ++ mask)) ∧
  ∀ (l : AsmLine) (is : List Instr), expandLine l = some is →
    ∃ ws : List RequestWord, assembleLine l = some ws ∧ ws.map decodeRequest = is
end

