-- ==== Sys2Proof/Laws/Cursor.lean ====
section
/-! SUPPORT. AddrOf where the sum fits (R141); the list that RowOf searches (R146), what stands in it and its order;
what RowOf answers. -/

namespace Sys2Proof.Machine

theorem addrOf_toNat (t : RowBases) (r c : Nat) (h : (rowBase t r).toNat + c ≤ 0x7F) :
    (addrOf t r c).toNat = (rowBase t r).toNat + c := by
  simp only [addrOf, if_pos h, BitVec.toNat_ofNat]
  omega

theorem mem_insertByBase (x p : DdramAddr × Nat) (l : List (DdramAddr × Nat)) :
    x ∈ insertByBase p l ↔ x = p ∨ x ∈ l := by
  induction l with
  | nil => simp [insertByBase]
  | cons q l ih =>
    simp only [insertByBase]
    split <;> simp [ih]
    tauto

theorem insertByBase_descending (p : DdramAddr × Nat) (l : List (DdramAddr × Nat))
    (h : l.Pairwise fun q r => r.1 ≤ q.1) : (insertByBase p l).Pairwise fun q r => r.1 ≤ q.1 := by
  induction l with
  | nil => simp [insertByBase]
  | cons q l ih =>
    obtain ⟨hq, hl⟩ := List.pairwise_cons.1 h
    simp only [insertByBase]
    split
    case isTrue hp =>
      exact .cons (fun r hr => (List.mem_cons.1 hr).elim (· ▸ hp) fun hr => BitVec.le_trans (hq r hr) hp) h
    case isFalse hp =>
      refine .cons (fun r hr => ?_) (ih hl)
      obtain rfl | hr := (mem_insertByBase r p l).1 hr
      · exact BitVec.le_of_lt (BitVec.not_le.1 hp)
      · exact hq r hr

theorem mem_descendingBases (c : Config) (x : DdramAddr × Nat) :
    x ∈ descendingBases c ↔ ∃ i < c.rows.toNat, x = (rowBase c.rowBases i, i) := by
  have : ∀ l : List (DdramAddr × Nat), x ∈ l.foldr insertByBase [] ↔ x ∈ l := fun l => by
    induction l with
    | nil => simp
    | cons p l ih => simp [mem_insertByBase, ih]
  simp [descendingBases, this, eq_comm]

theorem descendingBases_descending (c : Config) : (descendingBases c).Pairwise fun q r => r.1 ≤ q.1 := by
  unfold descendingBases
  generalize (List.range c.rows.toNat).map _ = l
  induction l with
  | nil => simp
  | cons p l ih => exact insertByBase_descending p _ ih

/-- RowOf answers a row of the configuration whose base is at most the address, as soon as one has it. -/
theorem rowOf_spec (c : Config) (a : DdramAddr) (h : ∃ i < c.rows.toNat, rowBase c.rowBases i ≤ a) :
    rowOf c a < c.rows.toNat ∧ rowBase c.rowBases (rowOf c a) ≤ a := by
  obtain ⟨i, hi, hb⟩ := h
  unfold rowOf
  cases hf : (descendingBases c).find? fun p => decide (p.1 ≤ a) with
  | none => simpa [hb] using List.find?_eq_none.1 hf _ ((mem_descendingBases c _).2 ⟨i, hi, rfl⟩)
  | some p =>
    obtain ⟨j, hj, rfl⟩ := (mem_descendingBases c p).1 (List.mem_of_find?_eq_some hf)
    exact ⟨hj, by simpa using List.find?_some hf⟩

/-- RowOf answers a row of the configuration, whatever the row bases. -/
theorem rowOf_lt (c : Config) (a : DdramAddr) (h : 0 < c.rows.toNat) : rowOf c a < c.rows.toNat := by
  unfold rowOf
  split
  case h_1 p hp =>
    obtain ⟨j, hj, rfl⟩ := (mem_descendingBases c p).1 (List.mem_of_find?_eq_some hp)
    exact hj
  case h_2 => exact Nat.mod_lt _ h

end Sys2Proof.Machine
end

