-- ==== Sys2Proof/Laws/Encoding.lean ====
section
/-! SUPPORT. The fields of a packed request word, so that no proof unfolds `packRequest`. -/

namespace Sys2Proof

/-- A bit of a packed request word: `op[23:16] a[15:8] b[7:0]` (R90). -/
theorem packRequest_bit (op a b : Byte) (k : Nat) :
    (packRequest op a b).getLsbD k =
      if k < 8 then b.getLsbD k else if k < 16 then a.getLsbD (k - 8) else op.getLsbD (k - 16) := by
  show ((op ++ a) ++ b : BitVec ((8 + 8) + 8)).getLsbD k = _
  rw [BitVec.getLsbD_append, BitVec.getLsbD_append]
  by_cases h : k < 8
  · simp [h]
  · by_cases h2 : k < 16
    · simp [h, h2, show k - 8 < 8 by omega]
    · simp [h, h2, show ¬ (k - 8 < 8) by omega, Nat.sub_sub]

@[simp] theorem opField_packRequest (op a b : Byte) : opField (packRequest op a b) = op := by
  unfold opField
  ext i hi
  simp only [BitVec.getElem_extractLsb', packRequest_bit]
  simp [show ¬ (16 + i < 8) by omega, show ¬ (16 + i < 16) by omega, BitVec.getLsbD_eq_getElem hi]

@[simp] theorem aField_packRequest (op a b : Byte) : aField (packRequest op a b) = a := by
  unfold aField
  ext i hi
  simp only [BitVec.getElem_extractLsb', packRequest_bit]
  simp [show ¬ (8 + i < 8) by omega, show 8 + i < 16 by omega, BitVec.getLsbD_eq_getElem hi]

@[simp] theorem bField_packRequest (op a b : Byte) : bField (packRequest op a b) = b := by
  unfold bField
  ext i hi
  simp only [BitVec.getElem_extractLsb', packRequest_bit]
  simp [hi]

/-- A word is its three fields. -/
theorem packRequest_fields (w : RequestWord) : packRequest (opField w) (aField w) (bField w) = w := by
  ext i hi
  rw [← BitVec.getLsbD_eq_getElem, packRequest_bit, ← BitVec.getLsbD_eq_getElem]
  unfold opField aField bField
  simp only [BitVec.getLsbD_extractLsb']
  split
  · simp_all
  · split
    · simp [show i - 8 < 8 by omega, show 8 + (i - 8) = i by omega]
    · simp [show i - 16 < 8 by omega, show 16 + (i - 16) = i by omega]

/-- The two operand bytes of SET_BACKLIGHT put together again (R93). -/
theorem wide_append_halves (v : BitVec 16) :
    (v.extractLsb' 8 8 ++ v.extractLsb' 0 8 : BitVec 16) = v := by
  ext i hi
  show ((v.extractLsb' 8 8 ++ v.extractLsb' 0 8 : BitVec (8 + 8)))[i] = _
  rw [← BitVec.getLsbD_eq_getElem, BitVec.getLsbD_append, ← BitVec.getLsbD_eq_getElem]
  simp only [BitVec.getLsbD_extractLsb']
  split
  · simp_all
  · simp [show i - 8 < 8 by omega, show 8 + (i - 8) = i by omega]

end Sys2Proof
end

