-- ==== Sys2Proof/Laws/State.lean ====
section
/-! SUPPORT. One lemma per field per update of the state, so that no proof unfolds a record update. -/

namespace Sys2Proof.Machine

@[simp] theorem emit_cfg (e : Event) (s : State) : (emit e s).cfg = s.cfg := rfl
@[simp] theorem emit_phase (e : Event) (s : State) : (emit e s).phase = s.phase := rfl
@[simp] theorem emit_em (e : Event) (s : State) : (emit e s).em = s.em := rfl
@[simp] theorem emit_dc (e : Event) (s : State) : (emit e s).dc = s.dc := rfl
@[simp] theorem emit_bl (e : Event) (s : State) : (emit e s).bl = s.bl := rfl
@[simp] theorem emit_fault (e : Event) (s : State) : (emit e s).fault = s.fault := rfl
@[simp] theorem emit_latch (e : Event) (s : State) : (emit e s).latch = s.latch := rfl
@[simp] theorem emit_todo (e : Event) (s : State) : (emit e s).todo = s.todo := rfl
@[simp] theorem emit_requests (e : Event) (s : State) : (emit e s).requests = s.requests := rfl
@[simp] theorem emit_answers (e : Event) (s : State) : (emit e s).answers = s.answers := rfl
@[simp] theorem emit_draws (e : Event) (s : State) : (emit e s).draws = s.draws := rfl
@[simp] theorem emit_trace (e : Event) (s : State) : (emit e s).trace = s.trace ++ [e] := rfl
@[simp] theorem emit_responses (e : Event) (s : State) : (emit e s).responses = s.responses := rfl

@[simp] theorem transportFailure_cfg (e : Event) (s : State) : (transportFailure e s).cfg = s.cfg := rfl
@[simp] theorem transportFailure_phase (e : Event) (s : State) : (transportFailure e s).phase = s.phase := rfl
@[simp] theorem transportFailure_em (e : Event) (s : State) : (transportFailure e s).em = s.em := rfl
@[simp] theorem transportFailure_dc (e : Event) (s : State) : (transportFailure e s).dc = s.dc := rfl
@[simp] theorem transportFailure_bl (e : Event) (s : State) : (transportFailure e s).bl = s.bl := rfl
@[simp] theorem transportFailure_fault (e : Event) (s : State) : (transportFailure e s).fault = true := rfl
@[simp] theorem transportFailure_latch (e : Event) (s : State) : (transportFailure e s).latch = s.latch := rfl
@[simp] theorem transportFailure_todo (e : Event) (s : State) : (transportFailure e s).todo = s.todo := rfl
@[simp] theorem transportFailure_requests (e : Event) (s : State) : (transportFailure e s).requests = s.requests := rfl
@[simp] theorem transportFailure_answers (e : Event) (s : State) : (transportFailure e s).answers = s.answers := rfl
@[simp] theorem transportFailure_draws (e : Event) (s : State) : (transportFailure e s).draws = s.draws := rfl
@[simp] theorem transportFailure_trace (e : Event) (s : State) : (transportFailure e s).trace = s.trace ++ [e] := rfl
@[simp] theorem transportFailure_responses (e : Event) (s : State) : (transportFailure e s).responses = s.responses := rfl

@[simp] theorem respond_cfg (st : Status) (v : Byte) (s : State) : (respond st v s).cfg = s.cfg := rfl
@[simp] theorem respond_phase (st : Status) (v : Byte) (s : State) : (respond st v s).phase = s.phase := rfl
@[simp] theorem respond_em (st : Status) (v : Byte) (s : State) : (respond st v s).em = s.em := rfl
@[simp] theorem respond_dc (st : Status) (v : Byte) (s : State) : (respond st v s).dc = s.dc := rfl
@[simp] theorem respond_bl (st : Status) (v : Byte) (s : State) : (respond st v s).bl = s.bl := rfl
@[simp] theorem respond_fault (st : Status) (v : Byte) (s : State) : (respond st v s).fault = s.fault := rfl
@[simp] theorem respond_latch (st : Status) (v : Byte) (s : State) : (respond st v s).latch = s.latch := rfl
@[simp] theorem respond_todo (st : Status) (v : Byte) (s : State) : (respond st v s).todo = s.todo := rfl
@[simp] theorem respond_requests (st : Status) (v : Byte) (s : State) : (respond st v s).requests = s.requests := rfl
@[simp] theorem respond_answers (st : Status) (v : Byte) (s : State) : (respond st v s).answers = s.answers := rfl
@[simp] theorem respond_draws (st : Status) (v : Byte) (s : State) : (respond st v s).draws = s.draws := rfl
@[simp] theorem respond_trace (st : Status) (v : Byte) (s : State) : (respond st v s).trace = s.trace := rfl
@[simp] theorem respond_responses (st : Status) (v : Byte) (s : State) : (respond st v s).responses = s.responses ++ [⟨st, v⟩] := rfl

@[simp] theorem setShadow_entry_cfg (v : Byte) (s : State) : (setShadow .entry v s).cfg = s.cfg := rfl
@[simp] theorem setShadow_entry_phase (v : Byte) (s : State) : (setShadow .entry v s).phase = s.phase := rfl
@[simp] theorem setShadow_entry_em (v : Byte) (s : State) : (setShadow .entry v s).em = v := rfl
@[simp] theorem setShadow_entry_dc (v : Byte) (s : State) : (setShadow .entry v s).dc = s.dc := rfl
@[simp] theorem setShadow_entry_bl (v : Byte) (s : State) : (setShadow .entry v s).bl = s.bl := rfl
@[simp] theorem setShadow_entry_fault (v : Byte) (s : State) : (setShadow .entry v s).fault = s.fault := rfl
@[simp] theorem setShadow_entry_latch (v : Byte) (s : State) : (setShadow .entry v s).latch = s.latch := rfl
@[simp] theorem setShadow_entry_todo (v : Byte) (s : State) : (setShadow .entry v s).todo = s.todo := rfl
@[simp] theorem setShadow_entry_requests (v : Byte) (s : State) : (setShadow .entry v s).requests = s.requests := rfl
@[simp] theorem setShadow_entry_answers (v : Byte) (s : State) : (setShadow .entry v s).answers = s.answers := rfl
@[simp] theorem setShadow_entry_draws (v : Byte) (s : State) : (setShadow .entry v s).draws = s.draws := rfl
@[simp] theorem setShadow_entry_trace (v : Byte) (s : State) : (setShadow .entry v s).trace = s.trace := rfl
@[simp] theorem setShadow_entry_responses (v : Byte) (s : State) : (setShadow .entry v s).responses = s.responses := rfl

@[simp] theorem setShadow_display_cfg (v : Byte) (s : State) : (setShadow .display v s).cfg = s.cfg := rfl
@[simp] theorem setShadow_display_phase (v : Byte) (s : State) : (setShadow .display v s).phase = s.phase := rfl
@[simp] theorem setShadow_display_em (v : Byte) (s : State) : (setShadow .display v s).em = s.em := rfl
@[simp] theorem setShadow_display_dc (v : Byte) (s : State) : (setShadow .display v s).dc = v := rfl
@[simp] theorem setShadow_display_bl (v : Byte) (s : State) : (setShadow .display v s).bl = s.bl := rfl
@[simp] theorem setShadow_display_fault (v : Byte) (s : State) : (setShadow .display v s).fault = s.fault := rfl
@[simp] theorem setShadow_display_latch (v : Byte) (s : State) : (setShadow .display v s).latch = s.latch := rfl
@[simp] theorem setShadow_display_todo (v : Byte) (s : State) : (setShadow .display v s).todo = s.todo := rfl
@[simp] theorem setShadow_display_requests (v : Byte) (s : State) : (setShadow .display v s).requests = s.requests := rfl
@[simp] theorem setShadow_display_answers (v : Byte) (s : State) : (setShadow .display v s).answers = s.answers := rfl
@[simp] theorem setShadow_display_draws (v : Byte) (s : State) : (setShadow .display v s).draws = s.draws := rfl
@[simp] theorem setShadow_display_trace (v : Byte) (s : State) : (setShadow .display v s).trace = s.trace := rfl
@[simp] theorem setShadow_display_responses (v : Byte) (s : State) : (setShadow .display v s).responses = s.responses := rfl

@[simp] theorem advanced_cfg (tr : List Event) (last : Byte) (n : Nat) (s : State) : (s.advanced tr last n).cfg = s.cfg := rfl
@[simp] theorem advanced_phase (tr : List Event) (last : Byte) (n : Nat) (s : State) : (s.advanced tr last n).phase = s.phase := rfl
@[simp] theorem advanced_em (tr : List Event) (last : Byte) (n : Nat) (s : State) : (s.advanced tr last n).em = s.em := rfl
@[simp] theorem advanced_dc (tr : List Event) (last : Byte) (n : Nat) (s : State) : (s.advanced tr last n).dc = s.dc := rfl
@[simp] theorem advanced_bl (tr : List Event) (last : Byte) (n : Nat) (s : State) : (s.advanced tr last n).bl = s.bl := rfl
@[simp] theorem advanced_fault (tr : List Event) (last : Byte) (n : Nat) (s : State) : (s.advanced tr last n).fault = s.fault := rfl
@[simp] theorem advanced_latch (tr : List Event) (last : Byte) (n : Nat) (s : State) : (s.advanced tr last n).latch = last := rfl
@[simp] theorem advanced_todo (tr : List Event) (last : Byte) (n : Nat) (s : State) : (s.advanced tr last n).todo = s.todo := rfl
@[simp] theorem advanced_requests (tr : List Event) (last : Byte) (n : Nat) (s : State) : (s.advanced tr last n).requests = s.requests := rfl
@[simp] theorem advanced_answers (tr : List Event) (last : Byte) (n : Nat) (s : State) : (s.advanced tr last n).answers = s.answersAfter n := rfl
@[simp] theorem advanced_draws (tr : List Event) (last : Byte) (n : Nat) (s : State) : (s.advanced tr last n).draws = s.draws := rfl
@[simp] theorem advanced_trace (tr : List Event) (last : Byte) (n : Nat) (s : State) : (s.advanced tr last n).trace = s.trace ++ tr := rfl
@[simp] theorem advanced_responses (tr : List Event) (last : Byte) (n : Nat) (s : State) : (s.advanced tr last n).responses = s.responses := rfl

@[simp] theorem completed_cfg (tr : List Event) (last : Byte) (n : Nat) (v : Byte) (s : State) : (s.completed tr last n v).cfg = s.cfg := rfl
@[simp] theorem completed_phase (tr : List Event) (last : Byte) (n : Nat) (v : Byte) (s : State) : (s.completed tr last n v).phase = s.phase := rfl
@[simp] theorem completed_em (tr : List Event) (last : Byte) (n : Nat) (v : Byte) (s : State) : (s.completed tr last n v).em = s.em := rfl
@[simp] theorem completed_dc (tr : List Event) (last : Byte) (n : Nat) (v : Byte) (s : State) : (s.completed tr last n v).dc = s.dc := rfl
@[simp] theorem completed_bl (tr : List Event) (last : Byte) (n : Nat) (v : Byte) (s : State) : (s.completed tr last n v).bl = s.bl := rfl
@[simp] theorem completed_fault (tr : List Event) (last : Byte) (n : Nat) (v : Byte) (s : State) : (s.completed tr last n v).fault = s.fault := rfl
@[simp] theorem completed_latch (tr : List Event) (last : Byte) (n : Nat) (v : Byte) (s : State) : (s.completed tr last n v).latch = last := rfl
@[simp] theorem completed_todo (tr : List Event) (last : Byte) (n : Nat) (v : Byte) (s : State) : (s.completed tr last n v).todo = s.todo := rfl
@[simp] theorem completed_requests (tr : List Event) (last : Byte) (n : Nat) (v : Byte) (s : State) : (s.completed tr last n v).requests = s.requests := rfl
@[simp] theorem completed_answers (tr : List Event) (last : Byte) (n : Nat) (v : Byte) (s : State) : (s.completed tr last n v).answers = s.answersAfter n := rfl
@[simp] theorem completed_draws (tr : List Event) (last : Byte) (n : Nat) (v : Byte) (s : State) : (s.completed tr last n v).draws = s.draws := rfl
@[simp] theorem completed_trace (tr : List Event) (last : Byte) (n : Nat) (v : Byte) (s : State) : (s.completed tr last n v).trace = s.trace ++ tr := rfl
@[simp] theorem completed_responses (tr : List Event) (last : Byte) (n : Nat) (v : Byte) (s : State) : (s.completed tr last n v).responses = s.responses ++ [⟨.ok, v⟩] := rfl

@[simp] theorem newInstance_cfg (c : Config) : (State.newInstance c).cfg = c := rfl
@[simp] theorem newInstance_phase (c : Config) : (State.newInstance c).phase = .unpowered := rfl
@[simp] theorem newInstance_em (c : Config) : (State.newInstance c).em = c.family.emDefault := rfl
@[simp] theorem newInstance_dc (c : Config) : (State.newInstance c).dc = c.family.dcDefault := rfl
@[simp] theorem newInstance_bl (c : Config) : (State.newInstance c).bl = false := rfl
@[simp] theorem newInstance_fault (c : Config) : (State.newInstance c).fault = false := rfl
@[simp] theorem newInstance_latch (c : Config) : (State.newInstance c).latch = 0x00 := rfl
@[simp] theorem newInstance_todo (c : Config) : (State.newInstance c).todo = [] := rfl
@[simp] theorem newInstance_requests (c : Config) : (State.newInstance c).requests = [] := rfl
@[simp] theorem newInstance_answers (c : Config) : (State.newInstance c).answers = [] := rfl
@[simp] theorem newInstance_draws (c : Config) : (State.newInstance c).draws = 0 := rfl
@[simp] theorem newInstance_trace (c : Config) : (State.newInstance c).trace = [] := rfl
@[simp] theorem newInstance_responses (c : Config) : (State.newInstance c).responses = [] := rfl

end Sys2Proof.Machine
end

