-- ==== Sys2Proof/Laws/Ops.lean ====
section
/-! SUPPORT. For each shared operation, once, what it does: its result when its accesses succeed, and the two
closure rules by which a property of the checked accesses becomes one of every procedure. -/

namespace Sys2Proof.Machine

/-! ### Sequencing -/

@[simp] theorem andThen_done {α β : Type} (a : α) (s : State) (k : α → State → Run β) :
    (Run.done a s).andThen k = k a s := rfl

@[simp] theorem andThen_failed {α β : Type} (s : State) (k : α → State → Run β) :
    (Run.failed s : Run α).andThen k = .failed s := rfl

@[simp] theorem block_nil (s : State) : block [] s = .done () s := rfl

@[simp] theorem block_cons (p : State → Run Unit) (ps : List (State → Run Unit)) (s : State) :
    block (p :: ps) s = (p s).andThen fun _ => block ps := rfl

/-! ### Successful accesses -/

theorem answersAfter_zero (s : State) : s.answersAfter 0 = s.answers := by
  simp [State.answersAfter]

theorem advanced_advanced (t₁ t₂ : List Event) (l₁ l₂ : Byte) (m n : Nat) (s : State) :
    (s.advanced t₁ l₁ m).advanced t₂ l₂ n = s.advanced (t₁ ++ t₂) l₂ (m + n) := by
  by_cases h : s.cfg.sim = true <;>
    simp [State.advanced, State.answersAfter, h, List.drop_drop]

theorem accessesOk_advanced {m n : Nat} {s : State} (tr : List Event) (l : Byte)
    (h : s.accessesOk (m + n)) : (s.advanced tr l m).accessesOk n := by
  rcases h with h | h
  · exact .inl h
  · by_cases hs : s.cfg.sim = true
    · exact .inl hs
    · refine .inr fun hm => h ?_
      simp only [advanced_answers, State.answersAfter, hs, Bool.false_eq_true, if_false] at hm
      rw [List.take_drop] at hm
      exact List.mem_of_mem_drop hm

theorem accessesOk_mono {m n : Nat} {s : State} (hmn : m ≤ n) (h : s.accessesOk n) :
    s.accessesOk m := by
  rcases h with h | h
  · exact .inl h
  · exact .inr fun hm => h ((List.take_prefix_take_left hmn).subset hm)

theorem answerWrite_ok {s : State} (h : s.accessesOk 1) :
    answerWrite s = (true, { s with answers := s.answersAfter 1 }) := by
  by_cases hs : s.cfg.sim = true
  · simp [answerWrite, State.answersAfter, hs]
  · rcases ha : s.answers with _ | ⟨a, rest⟩
    · simp [answerWrite, State.answersAfter, hs, ha]
      cases s; simp_all
    · cases a with
      | answered v => simp [answerWrite, State.answersAfter, hs, ha]
      | fail => simp_all [State.accessesOk]

/-- The checked write, when its access succeeds. -/
theorem tw_ok (b : Byte) {s : State} (h : s.accessesOk 1) :
    tw b s = .done () (s.advanced [.write b] b 1) := by
  simp [tw, answerWrite_ok h, State.advanced, emit]

/-- The checked write, when its access fails: the exception of R194. -/
theorem tw_fail (b : Byte) {s : State} {rest : List Answer} (hs : s.cfg.sim = false)
    (ha : s.answers = .fail :: rest) :
    tw b s = .failed (transportFailure (.writeFail b) { s with answers := rest }) := by
  simp [tw, answerWrite, hs, ha]

theorem delay_eq (t : Nat) (s : State) : delay t s = .done () (emit (.delay t) s) := rfl

theorem emit_advanced (e : Event) (tr : List Event) (l : Byte) (n : Nat) (s : State) :
    emit e (s.advanced tr l n) = s.advanced (tr ++ [e]) l n := by
  simp [emit, State.advanced]

theorem advanced_emit (e : Event) (tr : List Event) (l : Byte) (n : Nat) (s : State) :
    (emit e s).advanced tr l n = s.advanced (e :: tr) l n := by
  simp only [emit, State.advanced, List.append_assoc, List.singleton_append]
  rfl

theorem accessesOk_emit (e : Event) (n : Nat) (s : State) :
    (emit e s).accessesOk n ↔ s.accessesOk n := Iff.rfl

/-- The strobe, when its two writes succeed (R110). -/
theorem strobe_ok (b : Byte) {s : State} (h : s.accessesOk 2) :
    strobe b s = .done () (s.advanced
      [.write (b ||| s.cfg.pins.en), .delay s.cfg.tEH, .write b, .delay s.cfg.tEL] b 2) := by
  have h₁ := accessesOk_advanced (m := 1) (n := 1)
    [Event.write (b ||| s.cfg.pins.en), .delay s.cfg.tEH] (b ||| s.cfg.pins.en) h
  simp [strobe, tw_ok _ (accessesOk_mono (by omega : 1 ≤ 2) h), delayEH, delayEL, delay_eq,
    tw_ok _ h₁, advanced_advanced, emit_advanced]

theorem blBit_eq (c : Config) (bl : Bool) : blBit c.pins bl = backlightBits c bl := rfl

/-- A nibble transfer, when its three writes succeed (R111). -/
theorem sendNibble_ok (n : Nibble) (rs : RegisterSelect) {s : State} (h : s.accessesOk 3) :
    sendNibble n rs s = .done ()
      (s.advanced (nibbleTrace s.cfg (writeByte s.cfg.pins n s.bl rs)) (writeByte s.cfg.pins n s.bl rs) 3) := by
  have h₁ := accessesOk_advanced (m := 1) (n := 2) [Event.write (writeByte s.cfg.pins n s.bl rs)]
    (writeByte s.cfg.pins n s.bl rs) h
  simp [sendNibble, tw_ok _ (accessesOk_mono (by omega : 1 ≤ 3) h), strobe_ok _ h₁,
    advanced_advanced, nibbleTrace]

theorem nibbleBits_hi : ∀ v : Byte, nibbleBits (hiNibble v) = v &&& 0xF0 := by decide

theorem nibbleBits_lo : ∀ v : Byte, nibbleBits (loNibble v) = v <<< 4 := by decide

theorem writeByte_hi (c : Config) (v : Byte) (bl : Bool) (rs : RegisterSelect) :
    writeByte c.pins (hiNibble v) bl rs = highByte c bl v (rsBit c.pins rs) := by
  simp [writeByte, highByte, nibbleBits_hi, blBit_eq]

theorem writeByte_lo (c : Config) (v : Byte) (bl : Bool) (rs : RegisterSelect) :
    writeByte c.pins (loNibble v) bl rs = lowByte c bl v (rsBit c.pins rs) := by
  simp [writeByte, lowByte, nibbleBits_lo, blBit_eq]

/-- A byte send, when its six writes succeed (R112). -/
theorem sendByte_ok (v : Byte) (rs : RegisterSelect) {s : State} (h : s.accessesOk 6) :
    sendByte v rs s = .done () (s.advanced
      (byteTrace s.cfg s.bl v (rsBit s.cfg.pins rs) (settleTime s.cfg rs)) (lowByte s.cfg s.bl v (rsBit s.cfg.pins rs)) 6) := by
  have h₁ := accessesOk_advanced (m := 3) (n := 3)
    (nibbleTrace s.cfg (highByte s.cfg s.bl v (rsBit s.cfg.pins rs))) (highByte s.cfg s.bl v (rsBit s.cfg.pins rs)) h
  have h₂ := sendNibble_ok (hiNibble v) rs (accessesOk_mono (by omega : 3 ≤ 6) h)
  have h₃ := sendNibble_ok (loNibble v) rs h₁
  rw [writeByte_hi] at h₂
  rw [writeByte_lo] at h₃
  simp [sendByte, h₂, h₃, settle, delay_eq, advanced_advanced, emit_advanced, byteTrace]

/-! ### The status readback -/

/-- The checked read, when its access succeeds and the real transport is asked. -/
theorem tr_ok (half : StatusHalf) {s : State} (hs : s.cfg.sim = false) (h : s.accessesOk 1) :
    tr half s = .done (s.scriptedRead 0 0)
      { s with
        trace := s.trace ++ [.read (s.scriptedRead 0 0)]
        answers := s.answersAfter 1
        draws := s.draws + 1 } := by
  rcases ha : s.answers with _ | ⟨a, rest⟩
  · simp [tr, answerRead, State.answersAfter, State.scriptedRead, hs, ha, emit]
  · cases a with
    | answered v => simp [tr, answerRead, State.answersAfter, State.scriptedRead, hs, ha, emit]
    | fail => simp_all [State.accessesOk]

/-- The checked read in simulation (R68). -/
theorem tr_sim (half : StatusHalf) {s : State} (hs : s.cfg.sim = true) :
    tr half s = .done (stubRead s.cfg half) (emit (.read (stubRead s.cfg half)) s) := by
  simp [tr, answerRead, hs]

/-- The count of real reads set to `d`: what a read changes beside the trace and the answers. -/
def State.withDraws (d : Nat) (s : State) : State := { s with draws := d }

theorem withDraws_withDraws (d e : Nat) (s : State) :
    (s.withDraws d).withDraws e = s.withDraws e := rfl

theorem withDraws_advanced (d : Nat) (tr : List Event) (l : Byte) (n : Nat) (s : State) :
    (s.withDraws d).advanced tr l n = (s.advanced tr l n).withDraws d := rfl

theorem accessesOk_withDraws {d n : Nat} {s : State} :
    (s.withDraws d).accessesOk n ↔ s.accessesOk n := Iff.rfl

theorem scriptedRead_advanced {k j n : Nat} {s : State} (hs : s.cfg.sim = false) (tr : List Event)
    (l : Byte) : (s.advanced tr l n).scriptedRead k j = s.scriptedRead (n + k) j := by
  simp [State.scriptedRead, State.answersAfter, hs]

theorem scriptedRead_withDraws (k j d : Nat) (s : State) :
    (s.withDraws (s.draws + d)).scriptedRead k j = s.scriptedRead k (d + j) := by
  simp [State.scriptedRead, State.withDraws, Nat.add_assoc]

/-- The checked read as an advance that leaves `latch` as it was. -/
theorem tr_advanced (half : StatusHalf) {s : State} (hs : s.cfg.sim = false) (h : s.accessesOk 1) :
    tr half s = .done (s.scriptedRead 0 0)
      ((s.advanced [.read (s.scriptedRead 0 0)] s.latch 1).withDraws (s.draws + 1)) := by
  rw [tr_ok half hs h]
  rfl

/-- A pulse of the readback: E high and the wait, from a state whose pins are set up (R143). -/
theorem raise_ok (b : Byte) {s : State} (h : s.accessesOk 1) :
    block [tw b, delayEH] s = .done () (s.advanced [.write b, .delay s.cfg.tEH] b 1) := by
  simp [tw_ok _ h, delayEH, delay_eq, emit_advanced]

theorem lower_ok (b : Byte) {s : State} (h : s.accessesOk 1) :
    block [tw b, delayEL] s = .done () (s.advanced [.write b, .delay s.cfg.tEL] b 1) := by
  simp [tw_ok _ h, delayEL, delay_eq, emit_advanced]

/-- A first read-mode write and the first pulse (R143). -/
theorem enter_ok (b c : Byte) {s : State} (h : s.accessesOk 2) :
    block [tw b, tw c, delayEH] s =
      .done () (s.advanced [.write b, .write c, .delay s.cfg.tEH] c 2) := by
  have h₁ := accessesOk_advanced (m := 1) (n := 1) [Event.write b] b h
  simp [tw_ok _ (accessesOk_mono (by omega : 1 ≤ 2) h), tw_ok _ h₁, delayEH, delay_eq,
    advanced_advanced, emit_advanced]

/-- The middle of the readback: E low, then the second pulse (R143). -/
theorem middle_ok (b c : Byte) {s : State} (h : s.accessesOk 2) :
    block [tw b, delayEL, tw c, delayEH] s = .done ()
      (s.advanced [.write b, .delay s.cfg.tEL, .write c, .delay s.cfg.tEH] c 2) := by
  have h₁ := accessesOk_advanced (m := 1) (n := 1) [Event.write b, .delay s.cfg.tEL] b h
  simp [tw_ok _ (accessesOk_mono (by omega : 1 ≤ 2) h), tw_ok _ h₁, delayEH, delayEL, delay_eq,
    advanced_advanced, emit_advanced]

/-- The end of the readback: E low, then back to the write direction (R143). -/
theorem leave_ok (b c : Byte) {s : State} (h : s.accessesOk 2) :
    block [tw b, delayEL, tw c] s =
      .done () (s.advanced [.write b, .delay s.cfg.tEL, .write c] c 2) := by
  have h₁ := accessesOk_advanced (m := 1) (n := 1) [Event.write b, .delay s.cfg.tEL] b h
  simp [tw_ok _ (accessesOk_mono (by omega : 1 ≤ 2) h), tw_ok _ h₁, delayEL, delay_eq,
    advanced_advanced, emit_advanced]

theorem readModeByte_eq (c : Config) (bl : Bool) :
    readModeByte c.pins bl = 0xF0 ||| backlightBits c bl ||| c.pins.rw := rfl

/-- What a read that starts now gets (R52, R68). -/
def State.readValue (half : StatusHalf) (s : State) : Byte :=
  if s.cfg.sim then stubRead s.cfg half else s.scriptedRead 0 0

/-- The count of real reads once it is made. -/
def State.drawsAfterRead (s : State) : Nat := if s.cfg.sim then s.draws else s.draws + 1

/-- The checked read, when its access succeeds: an advance that leaves `latch` as it was. -/
theorem tr_done (half : StatusHalf) {s : State} (h : s.accessesOk 1) :
    tr half s = .done (s.readValue half)
      ((s.advanced [.read (s.readValue half)] s.latch 1).withDraws s.drawsAfterRead) := by
  cases hs : s.cfg.sim with
  | true =>
    simp only [tr_sim half hs, State.readValue, hs, if_true, State.drawsAfterRead]
    simp [emit, State.advanced, State.withDraws, State.answersAfter, hs]
  | false =>
    simp only [tr_advanced half hs h, State.readValue, hs, State.drawsAfterRead]
    simp

theorem readValue_first {s : State} (tr : List Event) (l : Byte) :
    (s.advanced tr l 2).readValue .first = s.statusReads.1 := by
  cases hs : s.cfg.sim <;>
    simp [State.readValue, State.statusReads, hs, stubRead, scriptedRead_advanced]

theorem readValue_second {s : State} (t₁ t₂ t₃ : List Event) (l₁ l₂ l₃ : Byte) (d : Nat)
    (hd : d = s.drawsAfterRead) :
    ((((s.advanced t₁ l₁ 2).advanced t₂ l₂ 1).withDraws d).advanced t₃ l₃ 2).readValue .second =
      s.statusReads.2 := by
  subst hd
  cases hs : s.cfg.sim <;>
    simp [State.readValue, State.statusReads, hs, stubRead, State.drawsAfterRead, State.withDraws,
      State.scriptedRead, State.answersAfter]

/-- The status readback, when its eight accesses succeed (R143). -/
theorem readStatus_ok {s : State} (h : s.accessesOk 8) :
    readStatus s = .done s.statusByte
      ((s.advanced (statusTrace s.cfg s.bl s.statusReads.1 s.statusReads.2)
        (backlightBits s.cfg s.bl) 8).withDraws s.drawsAfterStatus) := by
  obtain ⟨b, hb⟩ : ∃ b, b = readModeByte s.cfg.pins s.bl := ⟨_, rfl⟩
  obtain ⟨c, hc⟩ : ∃ c, c = b ||| s.cfg.pins.en := ⟨_, rfl⟩
  -- the first pulse, and the first read
  have h₁ := enter_ok b c (accessesOk_mono (by omega : 2 ≤ 8) h)
  have k₁ := accessesOk_advanced (m := 2) (n := 6) [.write b, .write c, .delay s.cfg.tEH] c h
  have h₂ := tr_done .first (accessesOk_mono (by omega : 1 ≤ 6) k₁)
  rw [readValue_first] at h₂
  have k₂ := (accessesOk_withDraws (d := s.drawsAfterRead)).2 (accessesOk_advanced (m := 1) (n := 5)
    [.read s.statusReads.1] c k₁)
  -- the second pulse, and the second read
  have h₃ := middle_ok b c (accessesOk_mono (by omega : 2 ≤ 5) k₂)
  have k₃ := accessesOk_advanced (m := 2) (n := 3)
    [.write b, .delay s.cfg.tEL, .write c, .delay s.cfg.tEH] c k₂
  have h₄ := tr_done .second (accessesOk_mono (by omega : 1 ≤ 3) k₃)
  rw [readValue_second (hd := rfl)] at h₄
  -- back to the write direction
  have k₄ := (accessesOk_withDraws (d := s.drawsAfterStatus)).2
    (accessesOk_advanced (m := 1) (n := 2) [.read s.statusReads.2] c k₃)
  have h₅ := leave_ok b (backlightByte s.cfg.pins s.bl) k₄
  have hd : ∀ (t₁ t₂ t₃ : List Event),
      ((((s.advanced t₁ c 2).advanced t₂ c 1).withDraws s.drawsAfterRead).advanced t₃ c 2).drawsAfterRead
        = s.drawsAfterStatus := by
    intro t₁ t₂ t₃
    cases hs : s.cfg.sim <;> simp [State.drawsAfterRead, State.drawsAfterStatus, State.withDraws, hs]
  have hl : ∀ (t₁ : List Event) (n : Nat) (t : State), (t.advanced t₁ c n).latch = c :=
    fun _ _ _ => rfl
  have hd₁ : ∀ t₁, (s.advanced t₁ c 2).drawsAfterRead = s.drawsAfterRead := fun _ => rfl
  rw [hl, hd₁] at h₂
  rw [hl, hd] at h₄
  simp only [readStatus, ← hb, ← hc]
  rw [h₁, andThen_done, h₂, andThen_done]
  simp only [withDraws_advanced, advanced_advanced, withDraws_withDraws] at h₃ h₄ h₅ ⊢
  erw [h₃, andThen_done, h₄, andThen_done]
  simp only [returning]
  erw [h₅]
  simp [andThen_done, State.statusByte, assembleStatus, statusTrace, hb, hc, readModeByte_eq,
    blBit_eq, backlightByte, State.withDraws]

/-! ### Properties of every procedure -/

/-- The state a procedure ends in, however it ends. -/
def Run.state {α : Type} : Run α → State
  | .done _ s => s
  | .failed s => s

/-- From any state, a procedure ends in a state related to it. -/
def Keeps {α : Type} (R : State → State → Prop) (p : State → Run α) : Prop := ∀ s, R s (p s).state

theorem keeps_andThen {α β : Type} {R : State → State → Prop} (htrans : ∀ a b c, R a b → R b c → R a c)
    {p : State → Run α} {k : α → State → Run β} (hp : Keeps R p) (hk : ∀ a, Keeps R (k a)) :
    Keeps R fun s => (p s).andThen k := by
  intro s
  have h := hp s
  cases hr : p s with
  | done a t =>
    rw [hr] at h
    simpa [hr] using htrans _ _ _ h (hk a t)
  | failed t =>
    rw [hr] at h
    show R s ((p s).andThen k).state
    rw [hr]
    exact h

theorem keeps_block {R : State → State → Prop} (hrefl : ∀ a, R a a)
    (htrans : ∀ a b c, R a b → R b c → R a c) {ps : List (State → Run Unit)}
    (h : ∀ p ∈ ps, Keeps R p) : Keeps R (block ps) := by
  induction ps with
  | nil => exact hrefl
  | cons p ps ih =>
    exact keeps_andThen htrans (h p (by simp)) fun _ => ih fun q hq => h q (by simp [hq])

/-- What can be said of a state once a procedure has run: `Q` if it ran to its end, `F` if it was cut. -/
def Ends {α : Type} (r : Run α) (Q : α → State → Prop) (F : State → Prop) : Prop :=
  match r with
  | .done a s => Q a s
  | .failed s => F s

theorem ends_andThen {α β : Type} {r : Run α} {k : α → State → Run β} {Q : α → State → Prop}
    {Q' : β → State → Prop} {F : State → Prop} (h : Ends r Q F)
    (hk : ∀ a s, Q a s → Ends (k a s) Q' F) : Ends (r.andThen k) Q' F := by
  cases r with
  | done a s => exact hk a s h
  | failed s => exact h

theorem ends_mono {α : Type} {r : Run α} {Q Q' : α → State → Prop} {F F' : State → Prop}
    (h : Ends r Q F) (hQ : ∀ a s, Q a s → Q' a s) (hF : ∀ s, F s → F' s) : Ends r Q' F' := by
  cases r with
  | done a s => exact hQ a s h
  | failed s => exact hF s h

/-- The two ways a checked write can end, with all it changes. -/
theorem tw_cases (b : Byte) (s : State) :
    (∃ as, tw b s = .done () { s with trace := s.trace ++ [.write b], latch := b, answers := as }) ∨
    (∃ as, tw b s = .failed
      { s with trace := s.trace ++ [.writeFail b], fault := true, answers := as }) := by
  by_cases hs : s.cfg.sim = true
  · exact .inl ⟨s.answers, by simp [tw, answerWrite, hs, emit]⟩
  · rcases ha : s.answers with _ | ⟨a, rest⟩
    · exact .inl ⟨[], by simp [tw, answerWrite, hs, emit, ha]⟩
    · cases a with
      | answered v => exact .inl ⟨rest, by simp [tw, answerWrite, hs, emit, ha]⟩
      | fail => exact .inr ⟨rest, by simp [tw, answerWrite, hs, emit, ha, transportFailure]⟩

/-- The two ways a checked read can end, with all it changes. -/
theorem tr_cases (half : StatusHalf) (s : State) :
    (∃ v as d, tr half s = .done v
      { s with trace := s.trace ++ [.read v], answers := as, draws := d }) ∨
    (∃ as d, tr half s = .failed
      { s with trace := s.trace ++ [.readFail], fault := true, answers := as, draws := d }) := by
  by_cases hs : s.cfg.sim = true
  · exact .inl ⟨stubRead s.cfg half, s.answers, s.draws, by simp [tr, answerRead, hs, emit]⟩
  · rcases ha : s.answers with _ | ⟨a, rest⟩
    · exact .inl ⟨Config.freeRead s.draws, [], s.draws + 1, by simp [tr, answerRead, hs, emit, ha]⟩
    · cases a with
      | answered v => exact .inl ⟨v, rest, s.draws + 1, by simp [tr, answerRead, hs, emit, ha]⟩
      | fail =>
        exact .inr ⟨rest, s.draws + 1, by simp [tr, answerRead, hs, emit, ha, transportFailure]⟩

/-! ### Requests and traffic -/

/-- What a request can do: be refused with nothing else changed, run to its end, or be cut. -/
theorem operation_cases (need : Phase) (legal : Bool) (body : State → Run Byte) (s : State) :
    (∃ st, admission need legal s = some st ∧
      operation need legal body s = .next (respond st 0 s)) ∨
    (admission need legal s = none ∧ ∃ v t, body s = .done v t ∧
      operation need legal body s = .next (respond .ok v t)) ∨
    (admission need legal s = none ∧ ∃ t, body s = .failed t ∧
      operation need legal body s = .next (respond .transportFailure 0 t)) := by
  unfold operation
  cases h : admission need legal s with
  | some st => exact .inl ⟨st, rfl, rfl⟩
  | none =>
    cases hb : body s with
    | done v t => exact .inr (.inl ⟨rfl, v, t, rfl, rfl⟩)
    | failed t => exact .inr (.inr ⟨rfl, t, rfl, rfl⟩)

/-- Admit lets a legal request proceed exactly when the instance is admitted in the phase it needs. -/
theorem admission_none_iff (need : Phase) (legal : Bool) (s : State) :
    admission need legal s = none ↔ legal = true ∧ s.admitted need := by
  unfold admission State.admitted
  cases configValid s.cfg <;> cases s.fault <;> cases legal <;> by_cases h : s.phase = need <;>
    simp [h]

/-- A request that is admitted and whose body runs to its end. -/
theorem operation_done {need : Phase} {legal : Bool} {body : State → Run Byte} {s t : State} {v : Byte}
    (hl : legal = true) (ha : s.admitted need) (hb : body s = .done v t) :
    operation need legal body s = .next (respond .ok v t) := by
  simp [operation, (admission_none_iff need legal s).2 ⟨hl, ha⟩, hb]

/-- A request that is admitted and whose body is cut at a failing access. -/
theorem operation_failed {need : Phase} {legal : Bool} {body : State → Run Byte} {s t : State}
    (hl : legal = true) (ha : s.admitted need) (hb : body s = .failed t) :
    operation need legal body s = .next (respond .transportFailure 0 t) := by
  simp [operation, (admission_none_iff need legal s).2 ⟨hl, ha⟩, hb]

end Sys2Proof.Machine
end

