-- ==== Sys2Proof/Laws/Failure.lean ====
section
/-! SUPPORT. Failures are precise (R194): every procedure, cut at its k-th access, has done exactly what its trace
says before that access. Proved of the two checked accesses and closed under sequencing. -/

namespace Sys2Proof.Machine

theorem accesses_append (t₁ t₂ : List Event) : accesses (t₁ ++ t₂) = accesses t₁ + accesses t₂ := by
  induction t₁ with
  | nil => simp [accesses]
  | cons e t ih => cases e <;> simp [accesses, ih] <;> omega

theorem writtenBytes_append (t₁ t₂ : List Event) :
    writtenBytes (t₁ ++ t₂) = writtenBytes t₁ ++ writtenBytes t₂ := by simp [writtenBytes]

theorem waits_append (t₁ t₂ : List Event) : waits (t₁ ++ t₂) = waits t₁ + waits t₂ := by
  induction t₁ with
  | nil => simp [waits]
  | cons e t ih => cases e <;> simp [waits, ih]; omega

/-- A cut inside the first part. -/
theorem cutAt_append_left {k : Nat} {t₁ t₂ : List Event} (hk : k < accesses t₁) :
    cutAt k (t₁ ++ t₂) = cutAt k t₁ := by
  induction t₁ generalizing k with
  | nil => simp [accesses] at hk
  | cons e t ih =>
    cases e <;> simp only [accesses] at hk <;> cases k <;> simp [cutAt] <;> exact ih (by omega)

/-- A cut beyond the first part. -/
theorem cutAt_append_right {k : Nat} {t₁ t₂ : List Event} (h : ∀ e ∈ t₁, e.isFailure = false)
    (hk : accesses t₁ ≤ k) : cutAt k (t₁ ++ t₂) = t₁ ++ cutAt (k - accesses t₁) t₂ := by
  induction t₁ generalizing k with
  | nil => simp [accesses]
  | cons e t ih =>
    have he := h e (by simp)
    have ht := fun e' h' => h e' (List.mem_cons_of_mem e h')
    cases e <;> simp only [accesses, Event.isFailure, Bool.true_eq_false] at hk he
    · obtain ⟨k, rfl⟩ : ∃ j, k = j + 1 := ⟨k - 1, by omega⟩
      simp [cutAt, accesses, ih ht (by omega : accesses t ≤ k)]
    · obtain ⟨k, rfl⟩ : ∃ j, k = j + 1 := ⟨k - 1, by omega⟩
      simp [cutAt, accesses, ih ht (by omega : accesses t ≤ k)]
    · simp [cutAt, accesses, ih ht hk]

/-- What no procedure touches. -/
def Outside (s t : State) : Prop :=
  t.cfg = s.cfg ∧ t.todo = s.todo ∧ t.requests = s.requests ∧ t.responses = s.responses

/-- `latch` after a trace: the last byte written in it, if there is one (R26). -/
def latchAfter (tr : List Event) (l : Byte) : Byte := ((writtenBytes tr).getLast?).getD l

theorem latchAfter_append (t₁ t₂ : List Event) (l : Byte) :
    latchAfter (t₁ ++ t₂) l = latchAfter t₂ (latchAfter t₁ l) := by
  simp [latchAfter, writtenBytes_append, List.getLast?_append, Option.getD_or]

/-- A procedure whose failures are precise (R194): it has a trace `tr` when nothing fails, and when its access
number `before.length` fails it is cut exactly there. -/
def Precise {α : Type} (p : State → Run α) : Prop :=
  ∀ (s : State) (before : List Answer), s.cfg.sim = false → Answer.fail ∉ before →
    ∃ (a : α) (t : State) (tr : List Event),
      p { s with answers := before } = .done a t ∧ t.trace = s.trace ++ tr ∧ t.fault = s.fault ∧
      Outside s t ∧ (∀ e ∈ tr, e.isFailure = false) ∧ t.answers = before.drop (accesses tr) ∧
      t.latch = latchAfter tr s.latch ∧
      ∀ rest : List Answer,
        if before.length < accesses tr then
          ∃ u : State, p { s with answers := before ++ .fail :: rest } = .failed u ∧
            u.trace = s.trace ++ cutAt before.length tr ∧ u.fault = true ∧ Outside s u ∧
            u.answers = rest ∧ u.latch = latchAfter (cutAt before.length tr) s.latch
        else
          p { s with answers := before ++ .fail :: rest } =
            .done a { t with answers := t.answers ++ .fail :: rest }

theorem Outside.trans {a b c : State} (h : Outside a b) (k : Outside b c) : Outside a c :=
  ⟨k.1.trans h.1, k.2.1.trans h.2.1, k.2.2.1.trans h.2.2.1, k.2.2.2.trans h.2.2.2⟩

theorem precise_andThen {α β : Type} {p : State → Run α} {k : α → State → Run β} (hp : Precise p)
    (hk : ∀ a, Precise (k a)) : Precise fun s => (p s).andThen k := by
  intro s before hs hb
  obtain ⟨a, t, tr, h₁, h₂, h₃, h₄, h₅, h₆, h₇, h₈⟩ := hp s before hs hb
  obtain ⟨b, t', tr', k₁, k₂, k₃, k₄, k₅, k₆, k₇, k₈⟩ :=
    hk a t (before.drop (accesses tr)) (by rw [h₄.1]; exact hs)
      (fun h => hb (List.mem_of_mem_drop h))
  have ht : t = { t with answers := before.drop (accesses tr) } := by rw [← h₆]
  refine ⟨b, t', tr ++ tr', ?_, by rw [k₂, h₂, List.append_assoc], k₃.trans h₃, h₄.trans k₄, ?_, ?_, ?_, ?_⟩
  · show (p _).andThen k = _
    rw [h₁, andThen_done, ht, k₁]
  · intro e he
    exact (List.mem_append.1 he).elim (h₅ e) (k₅ e)
  · rw [k₆, List.drop_drop, accesses_append]
  · rw [k₇, h₇, latchAfter_append]
  · intro rest
    have h₈ := h₈ rest
    have k₈ := k₈ rest
    rw [accesses_append]
    by_cases hc : before.length < accesses tr
    · rw [if_pos hc] at h₈
      obtain ⟨u, u₁, u₂, u₃, u₄, u₅, u₆⟩ := h₈
      rw [if_pos (by omega), cutAt_append_left hc]
      exact ⟨u, by show (p _).andThen k = _; rw [u₁, andThen_failed], u₂, u₃, u₄, u₅, u₆⟩
    · rw [if_neg hc] at h₈
      have hl : (before.drop (accesses tr)).length = before.length - accesses tr := by simp
      rw [hl] at k₈
      have hgo : ((p { s with answers := before ++ .fail :: rest }).andThen k) =
          k a { t with answers := before.drop (accesses tr) ++ .fail :: rest } := by
        rw [h₈, andThen_done, h₆]
      by_cases hd : before.length - accesses tr < accesses tr'
      · rw [if_pos hd] at k₈
        obtain ⟨u, u₁, u₂, u₃, u₄, u₅, u₆⟩ := k₈
        rw [if_pos (by omega), cutAt_append_right h₅ (by omega)]
        exact ⟨u, hgo.trans u₁, by rw [u₂, h₂, List.append_assoc], u₃, h₄.trans u₄, u₅,
          by rw [u₆, h₇, latchAfter_append]⟩
      · rw [if_neg hd] at k₈
        rw [if_neg (by omega)]
        exact hgo.trans k₈

theorem precise_done {α : Type} (a : α) : Precise fun s => .done a s := by
  intro s before _ _
  refine ⟨a, { s with answers := before }, [], rfl, by simp, rfl, ⟨rfl, rfl, rfl, rfl⟩, by simp, rfl, rfl,
    fun rest => ?_⟩
  simp [accesses]

theorem precise_block {ps : List (State → Run Unit)} (h : ∀ p ∈ ps, Precise p) : Precise (block ps) := by
  induction ps with
  | nil => exact precise_done ()
  | cons p ps ih =>
    exact precise_andThen (h p (by simp)) fun _ => ih fun q hq => h q (by simp [hq])

theorem precise_tw (b : Byte) : Precise (tw b) := by
  intro s before hs hb
  rcases before with _ | ⟨_ | _, before⟩
  · refine ⟨(), { s with trace := s.trace ++ [.write b], latch := b, answers := [] }, [.write b],
      by simp [tw, answerWrite, hs, emit], rfl, rfl, ⟨rfl, rfl, rfl, rfl⟩, by simp [Event.isFailure],
      rfl, rfl, fun rest => ?_⟩
    simp [accesses, cutAt, tw, answerWrite, hs, transportFailure, Outside, latchAfter, writtenBytes, Event.written, emit]
  · refine ⟨(), { s with trace := s.trace ++ [.write b], latch := b, answers := before }, [.write b],
      by simp [tw, answerWrite, hs, emit], rfl, rfl, ⟨rfl, rfl, rfl, rfl⟩, by simp [Event.isFailure],
      rfl, rfl, fun rest => ?_⟩
    simp [accesses, tw, answerWrite, hs, emit]
  · simp at hb

theorem precise_tr (half : StatusHalf) : Precise (tr half) := by
  intro s before hs hb
  rcases before with _ | ⟨_ | _, before⟩
  · obtain ⟨v, hv⟩ : ∃ v, v = Config.freeRead s.draws := ⟨_, rfl⟩
    refine ⟨v, { s with trace := s.trace ++ [.read v], answers := [], draws := s.draws + 1 }, [.read v],
      by simp [tr, answerRead, hs, emit, hv], rfl, rfl, ⟨rfl, rfl, rfl, rfl⟩, by simp [Event.isFailure],
      rfl, rfl, fun rest => ?_⟩
    simp [accesses, cutAt, tr, answerRead, hs, transportFailure, Outside, latchAfter, writtenBytes, Event.written, emit]
  · rename_i v
    refine ⟨v, { s with trace := s.trace ++ [.read v], answers := before, draws := s.draws + 1 }, [.read v],
      by simp [tr, answerRead, hs, emit], rfl, rfl, ⟨rfl, rfl, rfl, rfl⟩, by simp [Event.isFailure],
      rfl, rfl, fun rest => ?_⟩
    simp [accesses, tr, answerRead, hs, emit]
  · simp at hb

/-- An update that makes no access, reads no answer and leaves what is outside alone. -/
theorem precise_delay (n : State → Nat) (hn : ∀ s as, n { s with answers := as } = n s) :
    Precise fun s => delay (n s) s := by
  intro s before _ _
  refine ⟨(), { s with trace := s.trace ++ [.delay (n s)], answers := before }, [.delay (n s)],
    by simp [delay, hn, emit], rfl, rfl, ⟨rfl, rfl, rfl, rfl⟩, by simp [Event.isFailure], rfl, rfl,
    fun rest => ?_⟩
  simp [accesses, delay, hn, emit]

/-- The registers that a procedure may set itself, set by a function of the state. -/
theorem precise_setting {α : Type} (f : State → State) (p : State → Run α) 
    (hf : ∀ s as, f { s with answers := as } = { f s with answers := as })
    (ht : ∀ s, (f s).trace = s.trace ∧ (f s).fault = s.fault ∧ (f s).latch = s.latch ∧ Outside s (f s))
    (hp : Precise p) : Precise fun s => p (f s) := by
  intro s before hs hb
  obtain ⟨f₁, f₂, f₃, f₄⟩ := ht s
  obtain ⟨a, t, tr, h₁, h₂, h₃, h₄, h₅, h₆, h₇, h₈⟩ := hp (f s) before (by rw [f₄.1]; exact hs) hb
  refine ⟨a, t, tr, by beta_reduce; rw [hf, h₁], by rw [h₂, f₁], by rw [h₃, f₂], f₄.trans h₄, h₅, h₆, by rw [h₇, f₃], fun rest => ?_⟩
  have h₈ := h₈ rest
  split at h₈
  · obtain ⟨u, u₁, u₂, u₃, u₄, u₅, u₆⟩ := h₈
    rename_i hc
    rw [if_pos hc]
    exact ⟨u, by beta_reduce; rw [hf, u₁], by rw [u₂, f₁], u₃, f₄.trans u₄, u₅, by rw [u₆, f₃]⟩
  · rename_i hc
    beta_reduce
    rw [if_neg hc, hf, h₈]

/-- A procedure that reads something of the state that no access changes the meaning of first. -/
theorem precise_reading {α β : Type} (r : State → β) (hr : ∀ s as, r { s with answers := as } = r s)
    {p : β → State → Run α} (hp : ∀ b, Precise (p b)) : Precise fun s => p (r s) s := by
  intro s before hs hb
  have := hp (r s) s before hs hb
  simpa only [hr] using this

theorem precise_returning {p : State → Run Unit} (hp : Precise p) (v : Byte) : Precise (returning p v) :=
  precise_andThen hp fun _ => precise_done v

theorem precise_strobe (b : Byte) : Precise (strobe b) := by
  refine precise_reading (fun s => b ||| s.cfg.pins.en) (fun _ _ => rfl)
    (p := fun p => block [tw p, delayEH, tw b, delayEL]) fun p => precise_block fun q hp => ?_
  simp only [List.mem_cons, List.not_mem_nil, or_false] at hp
  rcases hp with rfl | rfl | rfl | rfl
  · exact precise_tw _
  · exact precise_delay (fun s => s.cfg.tEH) fun _ _ => rfl
  · exact precise_tw _
  · exact precise_delay (fun s => s.cfg.tEL) fun _ _ => rfl

theorem precise_pair {p q : State → Run Unit} (hp : Precise p) (hq : Precise q) : Precise (block [p, q]) :=
  precise_block fun r hr => by
    simp only [List.mem_cons, List.not_mem_nil, or_false] at hr
    rcases hr with rfl | rfl
    · exact hp
    · exact hq

theorem precise_sendNibble (n : Nibble) (rs : RegisterSelect) : Precise (sendNibble n rs) :=
  precise_reading (fun s => writeByte s.cfg.pins n s.bl rs) (fun _ _ => rfl) (p := fun b => block [tw b, strobe b])
    fun b => precise_pair (precise_tw b) (precise_strobe b)

theorem precise_sendByte (v : Byte) (rs : RegisterSelect) : Precise (sendByte v rs) := by
  refine precise_block fun p hp => ?_
  simp only [List.mem_cons, List.not_mem_nil, or_false] at hp
  rcases hp with rfl | rfl | rfl
  · exact precise_sendNibble _ _
  · exact precise_sendNibble _ _
  · exact precise_delay (fun s => settleTime s.cfg rs) fun _ _ => rfl

theorem precise_delayEH : Precise delayEH := precise_delay (fun s => s.cfg.tEH) fun _ _ => rfl
theorem precise_delayEL : Precise delayEL := precise_delay (fun s => s.cfg.tEL) fun _ _ => rfl

theorem precise_readStatus : Precise readStatus := by
  refine precise_reading (fun s => (readModeByte s.cfg.pins s.bl, s.cfg.pins.en)) (fun _ _ => rfl) (p := fun be s =>
    (block [tw be.1, tw (be.1 ||| be.2), delayEH] s).andThen fun _ s =>
    (tr .first s).andThen fun n0 s =>
    (block [tw be.1, delayEL, tw (be.1 ||| be.2), delayEH] s).andThen fun _ s =>
    (tr .second s).andThen fun n1 s =>
    returning (block [tw be.1, delayEL, tw (backlightByte s.cfg.pins s.bl)]) (assembleStatus n0 n1) s) fun be => ?_
  refine precise_andThen (precise_block ?_) fun _ => precise_andThen (precise_tr _) fun n0 =>
    precise_andThen (precise_block ?_) fun _ => precise_andThen (precise_tr _) fun n1 =>
    precise_reading (fun s => backlightByte s.cfg.pins s.bl) (fun _ _ => rfl)
      (p := fun c => returning (block [tw be.1, delayEL, tw c]) (assembleStatus n0 n1)) fun c =>
    precise_returning (precise_block ?_) _
  all_goals
    intro p hp
    simp only [List.mem_cons, List.not_mem_nil, or_false] at hp
    rcases hp with rfl | rfl | rfl | rfl <;>
      first | exact precise_tw _ | exact precise_delayEH | exact precise_delayEL

theorem precise_setPhase (q : Phase) : Precise (setPhase q) :=
  precise_setting (fun s => { s with phase := q }) (fun s => .done () s) (fun _ _ => rfl)
    (fun _ => ⟨rfl, rfl, rfl, rfl, rfl, rfl, rfl⟩) (precise_done ())

theorem precise_setBacklight (v : Bool) : Precise (setBacklight v) :=
  precise_reading (fun s => backlightByte s.cfg.pins v) (fun _ _ => rfl)
    (p := fun b s => tw b { s with bl := v }) fun b =>
  precise_setting (fun s => { s with bl := v }) (tw b) (fun _ _ => rfl)
    (fun _ => ⟨rfl, rfl, rfl, rfl, rfl, rfl, rfl⟩) (precise_tw _)

theorem precise_flagUpdate (reg : FlagReg) (mask : Byte) (set : Bool) :
    Precise (flagUpdate reg mask set) := by
  refine precise_reading (fun s => maskedUpdate (shadowOf s reg) mask set) ?_
    (p := fun v s => sendByte v .command (setShadow reg v s)) fun v => ?_
  · intro s as
    cases reg <;> rfl
  · refine precise_setting (setShadow reg v) (sendByte v .command) ?_ ?_ (precise_sendByte _ _)
    · intro s as
      cases reg <;> rfl
    · intro s
      cases reg <;> exact ⟨rfl, rfl, rfl, rfl, rfl, rfl, rfl⟩

theorem precise_placeCursor (r c : Nat) : Precise (placeCursor r c) := by
  refine precise_reading (fun s => (s.cfg.family, addrOf s.cfg.rowBases r c)) (fun _ _ => rfl) (p := fun fa s =>
    if r = 0 ∧ c = 0 then returning (sendByte fa.1.home .command) 0 s
    else returning (sendByte (setDdramByte fa.1 fa.2) .command) (fa.2.setWidth 8) s) fun fa => ?_
  by_cases h : r = 0 ∧ c = 0
  · simpa only [if_pos h] using precise_returning (precise_sendByte _ _) _
  · simpa only [if_neg h] using precise_returning (precise_sendByte _ _) _

end Sys2Proof.Machine
end

