-- ==== Sys2Proof/Laws/PerInstr.lean ====
section
/-! SUPPORT. Statements for all instructions, one lemma per constructor. `RowMatch`: the code of a well-formed
instruction is of the format, and matches the mask and pattern, of the instruction's row of
spec/opcode_table.json. -/

namespace Sys2Proof.Laws

/-- The word carries a row's mask and pattern on the request port. -/
def requestRow (pattern : RequestWord) : Code → Prop
  | .request w => w &&& 0xFF0000 = pattern
  | .command _ | .transport _ => False

/-- The byte carries a CMD8 row's mask and pattern. -/
def commandRow (mask pattern : Byte) : Code → Prop
  | .command b => b &&& mask = pattern
  | .request _ | .transport _ => False

/-- The byte carries a TB8 row's mask and pattern. -/
def transportRow (mask pattern : Byte) : Code → Prop
  | .transport b => b &&& mask = pattern
  | .request _ | .command _ => False

/-- The row "op in 0x13..0xFF". -/
def reservedRow : Code → Prop
  | .request w => 0x130000 ≤ w &&& 0xFF0000
  | .command _ | .transport _ => False

/-- The row of an instruction. -/
def tableRow : Instr → Code → Prop
  | .init => requestRow 0x000000
  | .sendCmd _ => requestRow 0x010000
  | .sendData _ => requestRow 0x020000
  | .clear => requestRow 0x030000
  | .home => requestRow 0x040000
  | .setCursor _ _ => requestRow 0x050000
  | .getAddr => requestRow 0x060000
  | .getLine => requestRow 0x070000
  | .isBusy => requestRow 0x080000
  | .cursorOn => requestRow 0x090000
  | .cursorOff => requestRow 0x0A0000
  | .blinkOn => requestRow 0x0B0000
  | .blinkOff => requestRow 0x0C0000
  | .displayOn => requestRow 0x0D0000
  | .displayOff => requestRow 0x0E0000
  | .setBacklight _ => requestRow 0x0F0000
  | .nextLine => requestRow 0x100000
  | .flagSet _ _ => requestRow 0x110000
  | .flagClr _ _ => requestRow 0x120000
  | .reserved _ => reservedRow
  | .cmdClearDisplay => commandRow 0xFF 0x01
  | .cmdReturnHome => commandRow 0xFF 0x02
  | .cmdEntryModeSet _ _ => commandRow 0xFC 0x04
  | .cmdDisplayControl _ _ _ => commandRow 0xF8 0x08
  | .cmdFunctionSet _ _ _ => commandRow 0xE3 0x20
  | .cmdSetDDRAMAddress _ => commandRow 0x80 0x80
  | .tbWrite _ _ _ _ => transportRow 0x02 0x00
  | .tbReadMode _ _ => transportRow 0xF3 0xF2
  | .tbBacklightOnly _ => transportRow 0xF7 0x00

/-- Only the code is left under the mask of a request row. -/
theorem packRequest_mask (op a b : Byte) : packRequest op a b &&& 0xFF0000 = packRequest op 0 0 := by
  apply BitVec.eq_of_getLsbD_eq
  intro k hk
  have hm : (0xFF0000 : RequestWord).getLsbD k = decide (16 ≤ k) := by
    interval_cases k <;> decide
  rw [BitVec.getLsbD_and, hm, packRequest_bit, packRequest_bit]
  by_cases h : k < 16
  · simp [h, show ¬ 16 ≤ k by omega]
  · simp [h, show 16 ≤ k by omega, show ¬ k < 8 by omega]

namespace RowMatch

/-- The code matches the row. -/
def Statement (i : Instr) : Prop := i.wellFormed = true → tableRow i (encode i)

theorem init : Statement .init := fun _ => packRequest_mask _ _ _
theorem sendCmd (value : Byte) : Statement (.sendCmd value) := fun _ => packRequest_mask _ _ _
theorem sendData (value : Byte) : Statement (.sendData value) := fun _ => packRequest_mask _ _ _
theorem clear : Statement .clear := fun _ => packRequest_mask _ _ _
theorem home : Statement .home := fun _ => packRequest_mask _ _ _
theorem setCursor (row col : Byte) : Statement (.setCursor row col) := fun _ => packRequest_mask _ _ _
theorem getAddr : Statement .getAddr := fun _ => packRequest_mask _ _ _
theorem getLine : Statement .getLine := fun _ => packRequest_mask _ _ _
theorem isBusy : Statement .isBusy := fun _ => packRequest_mask _ _ _
theorem cursorOn : Statement .cursorOn := fun _ => packRequest_mask _ _ _
theorem cursorOff : Statement .cursorOff := fun _ => packRequest_mask _ _ _
theorem blinkOn : Statement .blinkOn := fun _ => packRequest_mask _ _ _
theorem blinkOff : Statement .blinkOff := fun _ => packRequest_mask _ _ _
theorem displayOn : Statement .displayOn := fun _ => packRequest_mask _ _ _
theorem displayOff : Statement .displayOff := fun _ => packRequest_mask _ _ _
theorem setBacklight (value : BitVec 16) : Statement (.setBacklight value) :=
  fun _ => packRequest_mask _ _ _
theorem nextLine : Statement .nextLine := fun _ => packRequest_mask _ _ _
theorem flagSet (reg mask : Byte) : Statement (.flagSet reg mask) := fun _ => packRequest_mask _ _ _
theorem flagClr (reg mask : Byte) : Statement (.flagClr reg mask) := fun _ => packRequest_mask _ _ _
theorem reserved (op : Byte) : Statement (.reserved op) := by
  intro h
  show 0x130000 ≤ packRequest op 0 0 &&& 0xFF0000
  rw [packRequest_mask]
  revert h
  revert op
  decide
theorem cmdClearDisplay : Statement .cmdClearDisplay := fun _ => rfl
theorem cmdReturnHome : Statement .cmdReturnHome := fun _ => rfl
theorem cmdEntryModeSet (inc shift : Bool) : Statement (.cmdEntryModeSet inc shift) := by
  cases inc <;> cases shift <;> exact fun _ => rfl
theorem cmdDisplayControl (display cursor blink : Bool) :
    Statement (.cmdDisplayControl display cursor blink) := by
  cases display <;> cases cursor <;> cases blink <;> exact fun _ => rfl
theorem cmdFunctionSet (eightBit twoLine font5x10 : Bool) :
    Statement (.cmdFunctionSet eightBit twoLine font5x10) := by
  cases eightBit <;> cases twoLine <;> cases font5x10 <;> exact fun _ => rfl
theorem cmdSetDDRAMAddress (addr : DdramAddr) : Statement (.cmdSetDDRAMAddress addr) := by
  intro _
  show (0x80 ||| addr.setWidth 8) &&& 0x80 = (0x80 : Byte)
  revert addr
  decide
theorem tbWrite (nibble : Nibble) (backlight enable dataSelect : Bool) :
    Statement (.tbWrite nibble backlight enable dataSelect) := by
  intro _
  show (nibble.setWidth 8 <<< 4 ||| maskIf 0x08 backlight ||| maskIf 0x04 enable ||| maskIf 0x01 dataSelect) &&&
    0x02 = (0x00 : Byte)
  revert nibble backlight enable dataSelect
  decide
theorem tbReadMode (backlight enable : Bool) : Statement (.tbReadMode backlight enable) := by
  cases backlight <;> cases enable <;> exact fun _ => rfl
theorem tbBacklightOnly (backlight : Bool) : Statement (.tbBacklightOnly backlight) := by
  cases backlight <;> exact fun _ => rfl

end RowMatch

end Sys2Proof.Laws
end

