-- ==== Sys2Proof/Tests/Slice0.lean ====
section
/-! SUPPORT. Tests. The expected values are those of spec/95_test_vectors.md (V, P, S numbers) and of the tables of
spec/30_encoding.md; then one witness for each obligation that has hypotheses. -/

namespace Sys2Proof.Tests

open Sys2Proof.Machine

/-! ### Small states and projections -/

/-- A configuration with the defaults of R5. -/
def display (rows cols : Int) : Config where
  rows := rows
  cols := cols
  busId := 1
  devAddr := 39
  sim := false
  mockReadback := 0xA7
  commandDelay := 1550
  dataDelay := 50
  tEH := 1
  tEL := 1
  pins := standardPins
  rowBases := standardRowBases
  family := standardFamily
  init := standardInit

/-- A new 4x20 instance. -/
def fresh : State := State.newInstance (display 4 20)

/-- A 4x20 instance whose INIT has ended (the end state of P1, of whose trace the last write is kept). -/
def ready : State := { fresh with phase := .ready, bl := true, latch := 0x18, trace := [.write 0x18] }

/-- `ready` with the backlight off. -/
def dark : State := { ready with bl := false, latch := 0x10, trace := [.write 0x10] }

/-- `s` in simulation. -/
def simulated (s : State) : State := { s with cfg := { s.cfg with sim := true } }

/-- `s` with a geometry. -/
def shaped (rows cols : Int) (s : State) : State := { s with cfg := display rows cols }

/-- A family whose flags and codes are not those of R5, and all its command forms apart (R85, D11). -/
def otherFamily : Family where
  clear := 0x41
  home := 0x42
  entryMode := 0x08
  emInc := 0x01
  emShift := 0x04
  displayCtrl := 0x10
  dcDisplay := 0x01
  dcCursor := 0x04
  dcBlink := 0x08
  functionSet := 0x60
  fs8Bit := 0x01
  fs2Line := 0x02
  fs5x10 := 0x08
  setDdram := 0x80
  emDefault := 0x0D
  dcDefault := 0x11

/-- Pin masks that are not those of R80. -/
def otherPins : Pins where
  rs := 0x08
  rw := 0x04
  en := 0x02
  bl := 0x01

/-- `s` of another controller family on other pins. -/
def foreign (s : State) : State := { s with cfg := { s.cfg with family := otherFamily, pins := otherPins } }

/-- `s` with `n` successful accesses, then a failing one. -/
def failingAfter (n : Nat) (s : State) : State :=
  { s with answers := List.replicate n (.answered 0x00) ++ [.fail] }

/-- `s` whose next status read gets `n0` and `n1`, its third and sixth access. -/
def reading (n0 n1 : Byte) (s : State) : State :=
  { s with answers := [.answered 0, .answered 0, .answered n0, .answered 0, .answered 0, .answered n1] }

/-- The next state, or `s` where the machine stops. -/
def stateOr (s : State) : Host.Outcome State Fault Refusal → State
  | .next t => t
  | .fault _ | .refused _ => s

/-- The state once `i` has run. -/
def after (i : Instr) (s : State) : State := stateOr s (exec i s)

/-- The state after the step that takes the request `w`. -/
def stepped (w : RequestWord) (s : State) : State := stateOr s (step (present w s))

/-- The events `i` adds. -/
def events (i : Instr) (s : State) : List Event := (after i s).trace.drop s.trace.length

/-- What `i` answers. -/
def answer (i : Instr) (s : State) : List Response := (after i s).responses.drop s.responses.length

/-! ### WellFormed refuses ill-formed terms -/

theorem test_reserved_below_0x13_is_ill_formed : Instr.wellFormed (.reserved 0x12) = false := by decide
theorem test_init_spelled_reserved_is_ill_formed : Instr.wellFormed (.reserved 0x00) = false := by decide
theorem test_backlight_spelled_write_is_ill_formed :
    Instr.wellFormed (.tbWrite 0 true false false) = false := by decide
theorem test_last_reserved_is_well_formed : Instr.wellFormed (.reserved 0xFF) = true := by decide
theorem test_zero_nibble_with_enable_is_well_formed :
    Instr.wellFormed (.tbWrite 0 true true false) = true := by decide

/-! ### Decoding, bit by bit from R81 to R86 and R92 -/

theorem test_decode_init : decode (.request 0b000000000000000000000000) = .ok .init := by decide
theorem test_decode_sendCmd : decode (.request 0b000000011101010100000000) = .ok (.sendCmd 0xD5) := by decide
theorem test_decode_sendData : decode (.request 0b000000100100000100000000) = .ok (.sendData 0x41) := by decide
theorem test_decode_clear : decode (.request 0b000000110000000000000000) = .ok .clear := by decide
theorem test_decode_home : decode (.request 0b000001000000000000000000) = .ok .home := by decide
theorem test_decode_setCursor :
    decode (.request 0b000001010000001100010100) = .ok (.setCursor 3 20) := by decide
theorem test_decode_getAddr : decode (.request 0b000001100000000000000000) = .ok .getAddr := by decide
theorem test_decode_getLine : decode (.request 0b000001110000000000000000) = .ok .getLine := by decide
theorem test_decode_isBusy : decode (.request 0b000010000000000000000000) = .ok .isBusy := by decide
theorem test_decode_cursorOn : decode (.request 0b000010010000000000000000) = .ok .cursorOn := by decide
theorem test_decode_cursorOff : decode (.request 0b000010100000000000000000) = .ok .cursorOff := by decide
theorem test_decode_blinkOn : decode (.request 0b000010110000000000000000) = .ok .blinkOn := by decide
theorem test_decode_blinkOff : decode (.request 0b000011000000000000000000) = .ok .blinkOff := by decide
theorem test_decode_displayOn : decode (.request 0b000011010000000000000000) = .ok .displayOn := by decide
theorem test_decode_displayOff : decode (.request 0b000011100000000000000000) = .ok .displayOff := by decide
theorem test_decode_setBacklight :
    decode (.request 0b000011110111111111111111) = .ok (.setBacklight 32767) := by decide
theorem test_decode_nextLine : decode (.request 0b000100000000000000000000) = .ok .nextLine := by decide
theorem test_decode_flagSet : decode (.request 0b000100010000000100000111) = .ok (.flagSet 1 7) := by decide
theorem test_decode_flagClr : decode (.request 0b000100100000000000000010) = .ok (.flagClr 0 2) := by decide
theorem test_decode_reserved : decode (.request 0b000100110000000000000000) = .ok (.reserved 0x13) := by decide
theorem test_decode_clearDisplay : decode (.command 0b00000001) = .ok .cmdClearDisplay := by decide
theorem test_decode_returnHome : decode (.command 0b00000010) = .ok .cmdReturnHome := by decide
theorem test_decode_entryModeSet :
    decode (.command 0b00000101) = .ok (.cmdEntryModeSet false true) := by decide
theorem test_decode_displayControl :
    decode (.command 0b00001110) = .ok (.cmdDisplayControl true true false) := by decide
theorem test_decode_functionSet :
    decode (.command 0b00101000) = .ok (.cmdFunctionSet false true false) := by decide
theorem test_decode_setDdramAddress :
    decode (.command 0b11100111) = .ok (.cmdSetDDRAMAddress 0x67) := by decide
theorem test_decode_write : decode (.transport 0b11010101) = .ok (.tbWrite 0xD false true true) := by decide
theorem test_decode_readMode : decode (.transport 0b11111110) = .ok (.tbReadMode true true) := by decide
theorem test_decode_backlightOnly : decode (.transport 0b00001000) = .ok (.tbBacklightOnly true) := by decide
/-- R85: no command of the block is a cursor shift; R84: R/W = 1 with RS = 1 is never written. -/
theorem test_decode_refuses : decode (.command 0x10) = .error (.notACommandOfTheBlock 0x10) ∧
    decode (.transport 0xF3) = .error (.notATransportByteOfTheBlock 0xF3) := by decide

/-! ### Each instruction, one step -/

/-- V8: a one-row display is told one line; the 37 writes and the end state. -/
theorem test_init_one_row : let t := after .init (shaped 1 8 fresh)
    (writtenBytes t.trace).length = 37 ∧ ((writtenBytes t.trace).drop 12).take 6 =
      [0x20, 0x24, 0x20, 0x00, 0x04, 0x00] ∧
    t.phase = .ready ∧ t.latch = 0x18 ∧ t.bl = true := by decide
/-- V23c: the thirteenth access fails. -/
theorem test_init_cut : let t := after .init (failingAfter 12 fresh)
    t.phase = .functionLocked ∧ t.bl = false ∧ t.fault = true ∧ t.latch = 0x20 ∧
    t.trace.getLast? = some (.writeFail 0x20) ∧ t.responses = [⟨.transportFailure, 0⟩] := by decide
/-- V5, by a word whose unused field is not zero. -/
theorem test_sendCmd : let t := stepped 0x01D5AB dark
    t.trace.drop 1 = [.write 0xD0, .write 0xD4, .delay 1, .write 0xD0, .delay 1, .write 0x50, .write 0x54,
      .delay 1, .write 0x50, .delay 1, .delay 1550] ∧
    t.responses = [⟨.ok, 0⟩] ∧ t.latch = 0x50 := by decide
/-- V6. -/
theorem test_sendData : events (.sendData 0xD5) dark = [.write 0xD1, .write 0xD5, .delay 1, .write 0xD1,
    .delay 1, .write 0x51, .write 0x55, .delay 1, .write 0x51, .delay 1, .delay 50] := by decide
/-- V21d: the sixth access fails with E left high. -/
theorem test_sendData_cut : let t := after (.sendData 0x41) (failingAfter 5 ready)
    t.trace.drop 1 = [.write 0x49, .write 0x4D, .delay 1, .write 0x49, .delay 1, .write 0x19, .write 0x1D,
      .delay 1, .writeFail 0x19] ∧ t.latch = 0x1D ∧ t.fault = true ∧
    t.responses = [⟨.transportFailure, 0⟩] := by decide
/-- R116. -/
theorem test_clear : writtenBytes (events .clear ready) = [0x08, 0x0C, 0x08, 0x18, 0x1C, 0x18] := by decide
/-- R117. -/
theorem test_home : writtenBytes (events .home ready) = [0x08, 0x0C, 0x08, 0x28, 0x2C, 0x28] := by decide
/-- S6, P2 step 1. -/
theorem test_setCursor_saturates : answer (.setCursor 3 20) ready = [⟨.ok, 0x67⟩] ∧
    writtenBytes (events (.setCursor 3 20) ready) = [0xE8, 0xEC, 0xE8, 0x78, 0x7C, 0x78] := by decide
/-- V11, (-4, -1): the home path. -/
theorem test_setCursor_home : answer (.setCursor (-4) (-1)) ready = [⟨.ok, 0x00⟩] ∧
    writtenBytes (events (.setCursor (-4) (-1)) ready) = [0x08, 0x0C, 0x08, 0x28, 0x2C, 0x28] := by decide
/-- P3 step 1. -/
theorem test_getAddr : let s := reading 0x6A 0x8A ready
    answer .getAddr s = [⟨.ok, 0x68⟩] ∧
    events .getAddr s = [.write 0xFA, .write 0xFE, .delay 1, .read 0x6A, .write 0xFA, .delay 1, .write 0xFE,
      .delay 1, .read 0x8A, .write 0xFA, .delay 1, .write 0x08] := by decide
/-- V21e: the first read fails with E and R/W left high. -/
theorem test_getAddr_cut : let t := after .getAddr (failingAfter 2 ready)
    t.trace.drop 1 = [.write 0xFA, .write 0xFE, .delay 1, .readFail] ∧ t.latch = 0xFE := by decide
/-- V13: the busy bit is dropped before RowOf. -/
theorem test_getLine : answer .getLine (reading 0xEA 0x8A ready) = [⟨.ok, 3⟩] := by decide
/-- V13: a row that does not exist is not found. -/
theorem test_getLine_two_rows : answer .getLine (reading 0x1A 0x5A (shaped 2 20 ready)) = [⟨.ok, 0⟩] := by
  decide
/-- V13. -/
theorem test_isBusy : answer .isBusy (reading 0x8A 0x0A ready) = [⟨.ok, 1⟩] := by decide
/-- V13: the low nibbles never count. -/
theorem test_isBusy_not : answer .isBusy (reading 0x0F 0x0F ready) = [⟨.ok, 0⟩] := by decide
/-- V16: sent although nothing changes. -/
theorem test_cursorOn : let t := after .cursorOn { ready with dc := 0x0E }
    t.dc = 0x0E ∧ (writtenBytes t.trace).drop 4 = [0xE8, 0xEC, 0xE8] := by decide
/-- V23: the shadow keeps its new value. -/
theorem test_cursorOn_cut : let t := after .cursorOn (failingAfter 4 ready)
    t.dc = 0x0E ∧ t.fault = true ∧ t.latch = 0xE8 := by decide
/-- V15c. -/
theorem test_cursorOff : (after .cursorOff { ready with dc := 0x0F }).dc = 0x0D := by decide
/-- V15d. -/
theorem test_blinkOn : (after .blinkOn ready).dc = 0x0D := by decide
/-- V15d. -/
theorem test_blinkOff : (after .blinkOff { ready with dc := 0x0D }).dc = 0x0C := by decide
/-- P4 step 3: the display bit first, with the light still off. -/
theorem test_displayOn : let t := after .displayOn { dark with dc := 0x08 }
    writtenBytes (t.trace.drop 1) = [0x00, 0x04, 0x00, 0xC0, 0xC4, 0xC0, 0x08] ∧ t.dc = 0x0C ∧
    t.bl = true := by decide
/-- V18: the light first; the cursor and blink flags are kept. -/
theorem test_displayOff : let t := after .displayOff { ready with dc := 0x0F }
    writtenBytes (t.trace.drop 1) = [0x00, 0x00, 0x04, 0x00, 0xB0, 0xB4, 0xB0] ∧ t.dc = 0x0B ∧
    t.bl = false := by decide
/-- V23b: the light is assigned, the shadow not yet. -/
theorem test_displayOff_cut : let t := after .displayOff (failingAfter 0 ready)
    t.bl = false ∧ t.dc = 0x0C ∧ t.fault = true ∧ t.trace.drop 1 = [.writeFail 0x00] := by decide
/-- V20, 32767 and -32768. -/
theorem test_setBacklight : events (.setBacklight 0x7FFF) dark = [.write 0x08] ∧
    events (.setBacklight 0x8000) ready = [.write 0x00] := by decide
/-- V20, 0. -/
theorem test_setBacklight_zero : (after (.setBacklight 0) ready).bl = false := by decide
/-- P3 step 3: row 2 is followed by row 3. -/
theorem test_nextLine : answer .nextLine (reading 0x1A 0x5A ready) = [⟨.ok, 0x54⟩] ∧
    writtenBytes ((events .nextLine (reading 0x1A 0x5A ready)).drop 12) =
      [0xD8, 0xDC, 0xD8, 0x48, 0x4C, 0x48] := by decide
/-- S7: the last row wraps to the home command. -/
theorem test_nextLine_wraps : answer .nextLine (reading 0x6A 0x8A ready) = [⟨.ok, 0x00⟩] ∧
    writtenBytes ((events .nextLine (reading 0x6A 0x8A ready)).drop 12) =
      [0x08, 0x0C, 0x08, 0x28, 0x2C, 0x28] := by decide
/-- V17g. -/
theorem test_flagSet : let t := after (.flagSet 0 1) { ready with dc := 0x08 }
    t.em = 0x07 ∧ t.dc = 0x08 := by decide
/-- V17a, V17b, V17c. -/
theorem test_flagSet_illegal : answer (.flagSet 0 4) ready = [⟨.illegalRequest, 0⟩] ∧
    answer (.flagSet 1 8) ready = [⟨.illegalRequest, 0⟩] ∧
    answer (.flagSet 2 1) ready = [⟨.illegalRequest, 0⟩] := by decide
/-- V17h. -/
theorem test_flagClr : (after (.flagClr 0 2) { ready with em := 0x07 }).em = 0x05 := by decide
/-- V17d: mask 0 still sends. -/
theorem test_flagClr_nothing : writtenBytes (events (.flagClr 0 0) ready) =
    [0x08, 0x0C, 0x08, 0x68, 0x6C, 0x68] := by decide
/-- V17i, and V24: a reserved code is found before the wrong phase. -/
theorem test_reserved : stepped 0x7F0000 ready = respond .illegalRequest 0 ready ∧
    stepped 0x200000 fresh = respond .illegalRequest 0 fresh := by decide
/-- V24: FAULTED is found before a reserved code, CONFIG_ERROR before FAULTED. -/
theorem test_admit_order : answer (.reserved 0x20) { fresh with fault := true } = [⟨.faulted, 0⟩] ∧
    answer (.reserved 0x20) { shaped 5 20 fresh with fault := true } = [⟨.configError, 0⟩] := by decide
/-- V9, V10: NOT_READY. -/
theorem test_notReady : answer .init ready = [⟨.notReady, 0⟩] ∧
    answer (.sendCmd 1) fresh = [⟨.notReady, 0⟩] := by decide
/-- V22b: the bounds of a valid configuration. -/
theorem test_configValid : configValid (display 2 41) = false ∧ configValid (display 2 0) = false ∧
    configValid (display 0 20) = false ∧ configValid (display 4 40) = true ∧
    configValid { display 4 20 with devAddr := 0 } = false ∧
    configValid { display 4 20 with busId := -1 } = false := by decide
/-- V14: the mock value 0xA7. -/
theorem test_simulation : answer .getAddr (simulated ready) = [⟨.ok, 0xA7⟩] ∧
    answer .isBusy (simulated ready) = [⟨.ok, 1⟩] ∧ answer .getLine (simulated ready) = [⟨.ok, 2⟩] := by
  decide
/-- V12, the addresses around the row bases. -/
theorem test_rowOf : [0x00, 0x13, 0x14, 0x3F, 0x40, 0x53, 0x54, 0x7F].map (rowOf (display 4 20)) =
      [0, 0, 2, 2, 1, 1, 3, 3] ∧
    [0x00, 0x13, 0x14, 0x3F, 0x40, 0x53, 0x54, 0x7F].map (rowOf (display 3 20)) =
      [0, 0, 2, 2, 1, 1, 1, 1] := by decide
/-- With row bases of which the spec says nothing SET_CURSOR and GET_LINE still run, on a free address and row. -/
theorem test_other_row_bases :
    let s := { ready with cfg := { ready.cfg with rowBases := ⟨0x7F, 0x7F, 0x7F, 0x7F⟩ } }
    (answer (.setCursor 3 20) s).map (·.status) = [.ok] ∧
    (answer .getLine (reading 0x0A 0x0A s)).map (·.status) = [.ok] := by decide
/-- R85: the bytes that go out for the commands of R137. -/
theorem test_command_bytes : writtenBytes (events .cmdClearDisplay ready) =
      [0x08, 0x0C, 0x08, 0x18, 0x1C, 0x18] ∧
    writtenBytes (events .cmdReturnHome ready) = [0x08, 0x0C, 0x08, 0x28, 0x2C, 0x28] ∧
    writtenBytes (events (.cmdEntryModeSet true false) dark) = [0x00, 0x04, 0x00, 0x60, 0x64, 0x60] ∧
    writtenBytes (events (.cmdDisplayControl true false false) dark) =
      [0x00, 0x04, 0x00, 0xC0, 0xC4, 0xC0] ∧
    writtenBytes (events (.cmdFunctionSet false true false) dark) =
      [0x20, 0x24, 0x20, 0x80, 0x84, 0x80] ∧
    writtenBytes (events (.cmdSetDDRAMAddress 0x67) ready) = [0xE8, 0xEC, 0xE8, 0x78, 0x7C, 0x78] := by
  decide
/-- R81, R82, R83. -/
theorem test_transport_bytes : events (.tbWrite 0xD true true false) ready = [.write 0xDC] ∧
    events (.tbReadMode true true) ready = [.write 0xFE] ∧
    events (.tbBacklightOnly false) ready = [.write 0x00] := by decide
/-- R85: another family's codes and another wiring are what goes out, and its flags are the legal ones. -/
theorem test_other_family : writtenBytes (events .clear (foreign dark)) = [0x40, 0x42, 0x40, 0x10, 0x12, 0x10] ∧
    writtenBytes (events .cursorOn (foreign { dark with dc := 0x11 })) = [0x10, 0x12, 0x10, 0x50, 0x52, 0x50] ∧
    answer (.flagSet 0 0x02) (foreign ready) = [⟨.illegalRequest, 0⟩] ∧
    answer (.flagSet 0 0x04) (foreign ready) = [⟨.ok, 0⟩] := by decide
/-- P1 from reset: INIT presented on the port is what the next step runs. -/
theorem test_reset_runs_init : (stepped 0x000000 State.reset).phase = .ready := by decide
/-- R172: six hexadecimal digits. -/
theorem test_assembler : assembleLine (.request .setCursor [.number 3, .number 20]) = some [0x050314] ∧
    assembleLine (.request .flagSet [.entry, .number 1]) = some [0x110001] ∧
    assembleLine (.request .setBacklight [.number (-1)]) = some [0x0FFFFF] ∧
    sixDigits 0x0F00C0 = ['0', 'F', '0', '0', 'C', '0'] := by decide
/-- R98: a register name is an operand of FLAG_SET and FLAG_CLR (log 20). -/
theorem test_assembler_register_names : expandLine (.request .flagClr [.display, .number 2]) = some [.flagClr 1 2] ∧
    expandLine (.write .entry) = none ∧ expandLine (.request .sendData [.display]) = none := by decide

/-! ### Witnesses: for each obligation, a state and operands that meet its hypotheses

An existence of a next state is by running the machine. -/

theorem witness_StepRunsTheFetchedInstruction :
    (present 0x030000 ready).todo = [] ∧ (present 0x030000 ready).requests = [0x030000] ∧
    ({ ready with todo := [.command 0xE7] } : State).todo = [.command 0xE7] ∧
    decodeOf ready.cfg.family ready.cfg.pins (Traffic.command 0xE7).code = .ok (.cmdSetDDRAMAddress 0x67) ∧
    ({ ready with todo := [.transport 0xF3] } : State).todo = [.transport 0xF3] ∧
    decodeOf ready.cfg.family ready.cfg.pins (Traffic.transport 0xF3).code = .error (.notATransportByteOfTheBlock 0xF3) ∧
    ready.todo = [] ∧ ready.requests = [] := by decide

theorem witness_DecodeOfEncodeIsTheInstruction :
    Instr.wellFormed (.reserved 0x13) = true ∧ Instr.wellFormed (.reserved 0xFF) = true ∧
    Instr.wellFormed (.tbWrite 0 false false true) = true ∧
    Instr.wellFormed (.setBacklight 0x8000) = true := by decide

/-- The family of R5 and another. -/
theorem witness_CommandBytesRoundTripInEveryFamily : familyDecodable standardFamily ∧
    familyDecodable otherFamily ∧
    encodeOf otherFamily otherPins (.cmdDisplayControl true false true) = .command 0x19 := by decide

theorem witness_DecodedCodeIsWellFormedAndFaithful :
    decode (.request 0x01D5AB) = .ok (.sendCmd 0xD5) ∧
    decode (.command 0x80) = .ok (.cmdSetDDRAMAddress 0) ∧
    decode (.transport 0x01) = .ok (.tbWrite 0 false false true) := by decide

theorem witness_UnusedRequestBitsAreIgnored :
    (0x01D5AB : RequestWord) &&& usedBits (decodeRequest 0x01D5AB) =
      0x01D500 &&& usedBits (decodeRequest 0x01D5AB) ∧
    (0x7FFFFF : RequestWord) &&& usedBits (decodeRequest 0x7FFFFF) =
      0x7F0000 &&& usedBits (decodeRequest 0x7FFFFF) := by decide

theorem witness_ByteSplitAndReassembledIsUnchanged :
    ready.cfg.pins = standardPins ∧ ready.admitted .ready ∧ ready.accessesOk 6 := by decide

theorem witness_NibbleTransferIsPayloadThenStrobe : ready.cfg.pins = standardPins ∧ ready.accessesOk 3 ∧
    (0xA8 : Byte) = ((0xA : Nibble).setWidth 8 <<< 4) ||| ((BitVec.ofBool ready.bl).setWidth 8 <<< 3) ||| 0x00 ∧
    (0xA9 : Byte) = ((0xA : Nibble).setWidth 8 <<< 4) ||| ((BitVec.ofBool ready.bl).setWidth 8 <<< 3) ||| 0x01 := by
  decide

/-- The failure comes only after the accesses asked for, or the stub is asked. -/
theorem witness_SendCommandAndSendDataResult :
    (failingAfter 6 ready).admitted .ready ∧ (failingAfter 6 ready).accessesOk 6 ∧
    (simulated (failingAfter 0 ready)).admitted .ready ∧
    (simulated (failingAfter 0 ready)).accessesOk 6 := by decide

theorem witness_ClearAndHomeResult : ready.admitted .ready ∧ ready.accessesOk 6 := by decide

theorem witness_CommandAndDataTracesDifferInSelectAndSettle :
    dark.cfg.pins = standardPins ∧ dark.admitted .ready ∧ dark.accessesOk 6 := by decide

theorem witness_ResolveSaturatesAtBothEnds :
    configValid (display 1 1) = true ∧ configValid (display 4 40) = true := by decide

theorem witness_AddressIsRowBasePlusColumn : configValid (display 4 40) = true ∧
    (display 4 40).rowBases = standardRowBases ∧
    ((3 : Nat) : Int) < (display 4 40).rows ∧ ((39 : Nat) : Int) < (display 4 40).cols := by decide

/-- Both arms: the home path and the last position. -/
theorem witness_SetCursorResult : ready.admitted .ready ∧ ready.accessesOk 6 ∧
    ((0 : Nat) : Int) = max 0 (min (0x80 : Byte).toInt (ready.cfg.rows - 1)) ∧
    ((0 : Nat) : Int) = max 0 (min (0xFF : Byte).toInt (ready.cfg.cols - 1)) ∧
    ((3 : Nat) : Int) = max 0 (min (3 : Byte).toInt (ready.cfg.rows - 1)) ∧
    ((19 : Nat) : Int) = max 0 (min (20 : Byte).toInt (ready.cfg.cols - 1)) ∧
    (rowBase ready.cfg.rowBases 3).toNat + 19 ≤ 0x7F := by decide

theorem witness_RowOfIsTheRowWithTheGreatestBaseBelow : configValid (display 3 20) = true ∧
    (display 3 20).rowBases.row0 = 0x00 ∧ ((2 : Nat) : Int) < (display 3 20).rows ∧
    rowBase (display 3 20).rowBases 2 ≤ 0x14 ∧ rowBase (display 3 20).rowBases 0 ≤ 0x00 := by decide

/-- A geometry without overlap at each bound, and one with. -/
theorem witness_RowOfUndoesAddrOfExactlyWithoutOverlap : configValid (display 2 40) = true ∧
    configValid (display 4 20) = true ∧ configValid (display 3 21) = true ∧
    (display 3 21).rowBases = standardRowBases := by decide

theorem witness_StatusReadResults : (reading 0xEA 0x8A ready).admitted .ready ∧
    (reading 0xEA 0x8A ready).accessesOk 8 ∧ (simulated ready).admitted .ready ∧
    (simulated ready).accessesOk 8 := by decide

/-- Both arms: from the last row to row 0, and to row 3. -/
theorem witness_NextLineResult : (reading 0x6A 0x8A ready).admitted .ready ∧
    (reading 0x6A 0x8A ready).accessesOk 14 ∧
    0 = (rowOf ready.cfg ((reading 0x6A 0x8A ready).statusByte.extractLsb' 0 7) + 1) % ready.cfg.rows.toNat ∧
    (reading 0x1A 0x5A ready).accessesOk 14 ∧
    3 = (rowOf ready.cfg ((reading 0x1A 0x5A ready).statusByte.extractLsb' 0 7) + 1) % ready.cfg.rows.toNat := by
  decide

theorem witness_NextLineIsGetLineThenSetCursor :
    let s := reading 0x1A 0x5A ready
    let t := after .getLine s
    let u := after (.setCursor (BitVec.ofNat 8 (((2 : Byte).toNat + 1) % s.cfg.rows.toNat)) 0) t
    s.admitted .ready ∧ s.accessesOk 14 ∧ exec .getLine s = .next t ∧
    t.responses = s.responses ++ [⟨.ok, 2⟩] ∧
    exec (.setCursor (BitVec.ofNat 8 (((2 : Byte).toNat + 1) % s.cfg.rows.toNat)) 0) t = .next u ∧
    u.responses = t.responses ++ [⟨.ok, 0x54⟩] :=
  ⟨by decide, by decide, rfl, by decide, rfl, by decide⟩

theorem witness_LowBitsOfReadBytesAreDiscarded :
    List.Forall₂ (fun a b => match a, b with
      | .fail, .fail => True
      | .answered v, .answered w => v &&& 0xF0 = w &&& 0xF0
      | _, _ => False) [Answer.answered 0x45, .fail] [Answer.answered 0x4A, .fail] :=
  .cons (by decide) (.cons trivial .nil)

theorem witness_SimulationAnswersTheMock :
    (simulated ready).admitted .ready ∧ (simulated ready).cfg.sim = true := by decide

theorem witness_NoTransportFailureInSimulation : (simulated (failingAfter 0 ready)).cfg.sim = true ∧
    exec .clear (simulated (failingAfter 0 ready)) =
      .next (after .clear (simulated (failingAfter 0 ready))) := ⟨by decide, rfl⟩

/-- Run to its end, and cut, for each shadow. -/
theorem witness_FlagUpdateWritesTheShadowThenSendsItWhole : ready.accessesOk 6 ∧
    (0x07 : Byte) = ready.em ||| 0x01 ∧ (0x0D : Byte) = ready.dc ||| 0x01 ∧
    (∃ t, flagUpdate .entry 0x01 true ready = .done () t) ∧
    (∃ t, flagUpdate .entry 0x01 true (failingAfter 3 ready) = .failed t) ∧
    (∃ t, flagUpdate .display 0x01 true ready = .done () t) ∧
    ∃ t, flagUpdate .display 0x01 true (failingAfter 0 ready) = .failed t :=
  ⟨by decide, by decide, by decide, ⟨_, rfl⟩, ⟨_, rfl⟩, ⟨_, rfl⟩, ⟨_, rfl⟩⟩

theorem witness_CursorAndBlinkResults : ready.admitted .ready ∧ ready.accessesOk 6 := by decide

/-- Each clause at the largest and the empty mask. -/
theorem witness_FlagSetAndFlagClearResults : ready.admitted .ready ∧ ready.accessesOk 6 ∧
    (∀ mask ∈ [(0x03 : Byte), 0x00], mask &&& ~~~ (ready.cfg.family.emInc ||| ready.cfg.family.emShift) = 0) ∧
    ∀ mask ∈ [(0x07 : Byte), 0x00], mask &&& ~~~ (ready.cfg.family.dcDisplay ||| ready.cfg.family.dcCursor |||
      ready.cfg.family.dcBlink) = 0 := by decide

theorem witness_DisplayOnAndOffResults : ready.admitted .ready ∧ ready.accessesOk 7 ∧
    (0x0C : Byte) = ready.dc ||| ready.cfg.family.dcDisplay ∧
    (0x08 : Byte) = ready.dc &&& ~~~ ready.cfg.family.dcDisplay := by decide

/-- Cut at the first and at the last access. -/
theorem witness_DisplayOnAndOffCutKeepWhatWasDone : (failingAfter 0 ready).admitted .ready ∧
    (failingAfter 6 ready).admitted .ready ∧ ready.cfg.sim = false ∧
    (failingAfter 0 ready).answers = [] ++ .fail :: [] ∧
    (failingAfter 6 ready).answers = List.replicate 6 (.answered 0x00) ++ .fail :: [] ∧
    Answer.fail ∉ List.replicate 6 (.answered 0x00) ∧ (List.replicate 6 (Answer.answered 0x00)).length < 7 := by
  decide

/-- Each flag clear and set. -/
theorem witness_FlagPairsRoundTripExactlyWhen : ready.admitted .ready ∧ ready.accessesOk 12 ∧
    ready.dc &&& ready.cfg.family.dcCursor = 0 ∧ ready.dc &&& ready.cfg.family.dcBlink = 0 ∧
    ({ ready with dc := 0x0F } : State).admitted .ready ∧ ({ ready with dc := 0x0F } : State).accessesOk 12 := by
  decide

theorem witness_FlagOperationsAreIdempotentAndCommute : familyDistinct ready.cfg.family ∧ ready.admitted .ready ∧ ready.accessesOk 14 ∧
    Instr.cursorOn ∈ [Instr.cursorOn, .cursorOff, .blinkOn, .blinkOff, .displayOn, .displayOff] ∧
    Instr.blinkOff ∈ [Instr.cursorOn, .cursorOff, .blinkOn, .blinkOff, .displayOn, .displayOff] ∧
    Instr.displayOff ∈ [Instr.cursorOn, .cursorOff, .blinkOn, .blinkOff, .displayOn, .displayOff] := by decide

/-- A state between operations in which a write has happened. -/
theorem ready_between : BetweenOperations ready where
  nothingToDo := by decide
  emPrefix := by decide
  dcPrefix := by decide
  beforeInit := by decide
  lifecycle := by decide
  configured := by decide
  latchIsLast := by
    intro b h
    exact Option.some.inj (h.symm.trans rfl) ▸ rfl
  pins := by decide
  faultIsLast := by decide
  noEarlierFailure := by decide
  formsOnly := by decide

theorem witness_EveryShadowValueIsReachable : ready.cfg.family = standardFamily ∧ BetweenOperations ready ∧ ready.admitted .ready ∧
    ready.accessesOk 12 ∧ ((0x08 : Byte) ≤ 0x08 ∧ (0x08 : Byte) ≤ 0x0F) ∧
    ((0x08 : Byte) ≤ 0x0F ∧ (0x0F : Byte) ≤ 0x0F) ∧ ((0x04 : Byte) ≤ 0x04 ∧ (0x04 : Byte) ≤ 0x07) ∧
    ((0x04 : Byte) ≤ 0x07 ∧ (0x07 : Byte) ≤ 0x07) := by
  exact ⟨rfl, ready_between, by decide⟩

/-- Each clause, the values 1, 0 and -32768. -/
theorem witness_SetBacklightWhole : configValid (shaped 5 20 ready).cfg = false ∧
    configValid ready.cfg = true ∧ ({ ready with fault := true } : State).fault = true ∧
    fresh.fault = false ∧ configValid fresh.cfg = true ∧ fresh.phase ≠ .ready ∧
    ready.admitted .ready ∧ ready.accessesOk 1 ∧ 0 < (1 : BitVec 16).toInt ∧ ¬ 0 < (0 : BitVec 16).toInt ∧
    ¬ 0 < (0x8000 : BitVec 16).toInt ∧ ready.cfg.sim = false ∧
    (failingAfter 0 ready).admitted .ready ∧ (failingAfter 0 ready).answers = .fail :: [] := by decide

/-- Each arm. -/
theorem witness_EveryWrittenByteCarriesTheBacklight :
    ready.cfg.pins = standardPins ∧ dark.cfg.pins = standardPins ∧ fresh.cfg.pins = standardPins ∧
    (isRequest .displayOff = true ∧ isRequest (.setBacklight 1) = true ∧ isRequest .displayOn = true ∧
      isRequest .init = true ∧ isRequest .clear = true) ∧
    (exec .displayOff ready = .next (after .displayOff ready) ∧
      (after .displayOff ready).trace = ready.trace ++ events .displayOff ready) ∧
    (exec (.setBacklight 1) dark = .next (after (.setBacklight 1) dark) ∧
      (after (.setBacklight 1) dark).trace = dark.trace ++ events (.setBacklight 1) dark) ∧
    (exec .displayOn dark = .next (after .displayOn dark) ∧
      (after .displayOn dark).trace = dark.trace ++ events .displayOn dark) ∧
    (exec .init fresh = .next (after .init fresh) ∧
      (after .init fresh).trace = fresh.trace ++ events .init fresh) ∧
    (exec .clear ready = .next (after .clear ready) ∧
      (after .clear ready).trace = ready.trace ++ events .clear ready) :=
  ⟨rfl, rfl, rfl, by decide, ⟨rfl, by decide⟩, ⟨rfl, by decide⟩, ⟨rfl, by decide⟩, ⟨rfl, by decide⟩,
    ⟨rfl, by decide⟩⟩

theorem witness_InitResult : fresh.admitted .unpowered ∧ fresh.accessesOk 37 ∧
    (failingAfter 37 fresh).admitted .unpowered ∧ (failingAfter 37 fresh).accessesOk 37 := by decide

theorem witness_InitOfANewInstanceIsTheWorkedTrace : configStandard (display 2 16) ∧ configValid (display 2 16) = true ∧
    1 < (display 2 16).rows ∧ (display 2 16).commandDelay = 1550 ∧ (display 2 16).tEH = 1 ∧
    (display 2 16).tEL = 1 := by decide

/-- Cut at the first access, at the first of FUNCTION_LOCKED, at the backlight's, and at the last. -/
theorem witness_InitCutLeavesADeadInstance :
    ∀ n ∈ [0, 11, 12, 29, 30, 36], (failingAfter n fresh).admitted .unpowered ∧
      (failingAfter n fresh).cfg.sim = false ∧
      (failingAfter n fresh).answers = List.replicate n (.answered 0x00) ++ .fail :: [] ∧
      Answer.fail ∉ List.replicate n (.answered 0x00) ∧ (List.replicate n (Answer.answered 0x00)).length < 37 ∧
      isRequest .init = true ∧ (failingAfter n fresh).todo = [] := by decide

/-- Each clause; the legal bounds of `mask` are just met, or just missed. -/
theorem witness_AdmissionOrderAndNoEffect : isRequest (.flagSet 0 4) = true ∧
    configValid (shaped 5 20 ready).cfg = false ∧ configValid ready.cfg = true ∧
    ({ ready with fault := true } : State).fault = true ∧ ready.fault = false ∧
    ¬ requestLegal ready.cfg.family (.flagSet 0 4) ∧ ¬ requestLegal ready.cfg.family (.flagClr 1 8) ∧
    ¬ requestLegal ready.cfg.family (.flagSet 2 0) ∧ ¬ requestLegal ready.cfg.family (.reserved 0x13) ∧
    requestLegal ready.cfg.family (.flagSet 0 3) ∧ requestLegal ready.cfg.family (.flagClr 1 7) ∧
    requestLegal ready.cfg.family .init ∧
    ready.phase ≠ neededPhase .init ∧ fresh.phase ≠ neededPhase .clear := by
  refine ⟨by decide, by decide, by decide, by decide, by decide, ?_, ?_, ?_, id, ?_, ?_, trivial, by decide,
    by decide⟩
  · show ¬ (_ ∨ _)
    decide
  · show ¬ (_ ∨ _)
    decide
  · show ¬ (_ ∨ _)
    decide
  · show _ ∨ _
    decide
  · show _ ∨ _
    decide

theorem witness_ReservedRequestsAnswerIllegal : (0x13 : Byte) ≤ (0x130000 : RequestWord).extractLsb' 16 8 ∧
    (0x13 : Byte) ≤ (0xFF0000 : RequestWord).extractLsb' 16 8 ∧ configValid fresh.cfg = true ∧
    fresh.fault = false := by decide

theorem witness_InvalidConfigurationIsInertForEver :
    (present 0 (shaped 5 20 fresh)).todo = [] ∧ configValid (present 0 (shaped 5 20 fresh)).cfg = false := by
  decide

theorem witness_FaultIsForEver : let s := present 0x030000 (after .clear (failingAfter 0 ready))
    s.todo = [] ∧ configValid s.cfg = true ∧ s.fault = true := by decide

/-- A failure that is met at the last access, and one that is not met. -/
theorem witness_TransportFailureIsPrecise : isRequest .clear = true ∧ requestLegal ready.cfg.family .clear ∧
    ready.admitted (neededPhase .clear) ∧ ready.cfg.sim = false ∧
    Answer.fail ∉ List.replicate 5 (.answered 0x00) ∧
    (List.replicate 5 (Answer.answered 0x00)).length < accesses (events .clear ready) ∧
    ¬ (List.replicate 6 (Answer.answered 0x00)).length < accesses (events .clear ready) := by
  refine ⟨by decide, trivial, by decide, by decide, by decide, by decide, by decide⟩

theorem witness_CommandOperationsSendTheConfiguredBytes :
    ready.admitted .ready ∧ (foreign ready).admitted .ready ∧
    (∀ mask ∈ [(0x00 : Byte), 0x03], mask &&& ~~~ (ready.cfg.family.emInc ||| ready.cfg.family.emShift) = 0) ∧
    (∀ mask ∈ [(0x00 : Byte), 0x07], mask &&& ~~~ (ready.cfg.family.dcDisplay ||| ready.cfg.family.dcCursor |||
      ready.cfg.family.dcBlink) = 0) ∧
    ((0 : Nat) : Int) = max 0 (min (0xFF : Byte).toInt (ready.cfg.rows - 1)) ∧
    ((19 : Nat) : Int) = max 0 (min (20 : Byte).toInt (ready.cfg.cols - 1)) := by decide

theorem witness_StepKeepsBetweenOperations : BetweenOperations (present 0x0D0000 ready) ∧
    step (present 0x0D0000 ready) = .next (stepped 0x0D0000 ready) :=
  ⟨{ ready_between with }, rfl⟩

/-- Each register changes in some run: `latch` and `fault` in the cut one. -/
theorem witness_RegistersHaveOnlyTheirWriters :
    exec .init fresh = .next (after .init fresh) ∧ (after .init fresh).phase ≠ fresh.phase ∧
    exec (.flagSet 0 1) ready = .next (after (.flagSet 0 1) ready) ∧ (after (.flagSet 0 1) ready).em ≠ ready.em ∧
    exec .blinkOn ready = .next (after .blinkOn ready) ∧ (after .blinkOn ready).dc ≠ ready.dc ∧
    exec .displayOff ready = .next (after .displayOff ready) ∧ (after .displayOff ready).bl ≠ ready.bl ∧
    exec (.sendData 0x41) (failingAfter 5 ready) = .next (after (.sendData 0x41) (failingAfter 5 ready)) ∧
    (after (.sendData 0x41) (failingAfter 5 ready)).latch ≠ ready.latch ∧
    (after (.sendData 0x41) (failingAfter 5 ready)).fault ≠ ready.fault :=
  ⟨rfl, by decide, rfl, by decide, rfl, by decide, rfl, by decide, rfl, by decide, by decide⟩

theorem witness_PhaseNeverGoesBack : step (present 0 fresh) = .next (stepped 0 fresh) ∧
    (stepped 0 fresh).phase ≠ (present 0 fresh).phase ∧
    step (present 0 ready) = .next (stepped 0 ready) ∧ ready.phase = .ready := ⟨rfl, by decide, rfl, rfl⟩

theorem witness_EveryWaitingRequestIsAnswered : (present 0x100000 (present 0 fresh)).todo = [] ∧
    (present 0x100000 (present 0 fresh)).requests.length = 2 := by decide

theorem witness_WaitsAreTheTimingTable :
    let s := reading 0x1A 0x5A ready
    s.admitted .ready ∧ s.accessesOk 14 ∧
    (exec (.sendCmd 0xD5) s = .next (after (.sendCmd 0xD5) s) ∧
      (after (.sendCmd 0xD5) s).trace = s.trace ++ events (.sendCmd 0xD5) s) ∧
    (exec (.sendData 0xD5) s = .next (after (.sendData 0xD5) s) ∧
      (after (.sendData 0xD5) s).trace = s.trace ++ events (.sendData 0xD5) s) ∧
    (exec .getAddr s = .next (after .getAddr s) ∧
      (after .getAddr s).trace = s.trace ++ events .getAddr s) ∧
    (exec .nextLine s = .next (after .nextLine s) ∧
      (after .nextLine s).trace = s.trace ++ events .nextLine s) ∧
    (fresh.cfg = s.cfg ∧ fresh.admitted .unpowered ∧ fresh.accessesOk 37 ∧
      exec .init fresh = .next (after .init fresh)) :=
  ⟨by decide, by decide, ⟨rfl, by decide⟩, ⟨rfl, by decide⟩, ⟨rfl, by decide⟩, ⟨rfl, by decide⟩,
    by decide, by decide, by decide, rfl⟩

theorem witness_CommandBytesGoOutAsTwoNibbles :
    configValid ready.cfg = true ∧ ready.fault = false ∧ ready.accessesOk 6 := by decide

theorem witness_TransportBytesAreOneWrite :
    ready.cfg.pins = standardPins ∧ configValid ready.cfg = true ∧ ready.fault = false ∧ ready.accessesOk 1 := by decide

theorem witness_DeadInstanceSendsNoTraffic : isRequest .cmdReturnHome = false ∧
    isRequest (.tbBacklightOnly true) = false ∧ configValid (shaped 5 20 fresh).cfg = false ∧
    ({ ready with fault := true } : State).fault = true := by decide

theorem witness_PrintLineIsPrintThenNextLine :
    expandLine (.print [0x48, 0x69]) = some [.sendData 0x48, .sendData 0x69] ∧
    expandLine (.print [0x48, 256]) = none := by decide

theorem witness_TextIsOneSendDataPerCharacter :
    (∀ c ∈ [0, 255], c ≤ 255) ∧ ∃ c ∈ [0x41, 256], 255 < c := by decide

/-- The ends of the ranges, and a line. -/
theorem witness_AssembledWordsDecodeToTheLine :
    ((-128 : Int) ≤ -128 ∧ (-128 : Int) ≤ 127) ∧ ((-128 : Int) ≤ 127 ∧ (127 : Int) ≤ 127) ∧
    ((-32768 : Int) ≤ -32768 ∧ (-32768 : Int) ≤ 32767) ∧ ((-32768 : Int) ≤ 32767 ∧ (32767 : Int) ≤ 32767) ∧
    expandLine (.println [0x48, 0x69]) = some [.sendData 0x48, .sendData 0x69, .nextLine] := by decide

end Sys2Proof.Tests
end

section
/-! SUPPORT and the statement on the nibble transfer (40_nibble_sequencer.md section 1). -/

namespace Sys2Proof.Machine

/-- With the masks of R80 the backlight bit is bit 3, the `bl << 3` of the spec's formulas. -/
theorem blBit_standardPins (bl : Bool) :
    blBit standardPins bl = (BitVec.ofBool bl).setWidth 8 <<< 3 := by
  cases bl <;> rfl

/-- Settles O11: the transfer is `sendNibble_ok`, and with the masks of R80 its byte is the one the rule
writes out. -/
theorem nibbleTransferIsPayloadThenStrobe : Obligations.NibbleTransferIsPayloadThenStrobe := by
  intro n rs s b hpins hok hb
  have hbyte : writeByte s.cfg.pins n s.bl rs = b := by
    rw [hb, hpins, writeByte, blBit_standardPins, nibbleBits]
    cases rs <;> rfl
  have hen : s.cfg.pins.en = 0x04 := by rw [hpins]; rfl
  rw [sendNibble_ok n rs hok, hbyte, nibbleTrace, hen]

end Sys2Proof.Machine
end

section
/-! SUPPORT and the statement on the cursor mapper's clamp (42_cursor_mapper.md section 1). -/

namespace Sys2Proof.Machine

/-- On a range that is not empty the order of `clamp`'s two comparisons does not show. -/
theorem clamp_eq_max_min {x lo hi : Int} (h : lo ≤ hi) : clamp x lo hi = max lo (min x hi) := by
  unfold clamp
  split
  case isTrue hlow => omega
  case isFalse hlow =>
    split
    case isTrue hhigh => omega
    case isFalse hhigh => omega

/-- A clamp from 0 is no negative number, so `resolve` loses nothing by its `toNat`. -/
theorem toNat_clamp_zero {x hi : Int} (h : 0 ≤ hi) :
    ((clamp x 0 hi).toNat : Int) = max 0 (min x hi) := by
  rw [clamp_eq_max_min h, Int.toNat_of_nonneg (le_max_left _ _)]

/-- The bounds on the geometry (R6) that `configValid` checks. -/
theorem geometry_of_configValid {c : Config} (h : configValid c = true) :
    (1 ≤ c.rows ∧ c.rows ≤ 4) ∧ 1 ≤ c.cols ∧ c.cols ≤ 40 := by
  simp only [configValid, Bool.and_eq_true, decide_eq_true_eq] at h
  obtain ⟨⟨⟨⟨⟨hrow, hrows⟩, hcol⟩, hcols⟩, -⟩, -⟩ := h
  exact ⟨⟨hrow, hrows⟩, hcol, hcols⟩

/-- Settles O15: a valid configuration has a row and a column, so the range of each coordinate is not
empty and each is clamped by `toNat_clamp_zero`. -/
theorem resolveSaturatesAtBothEnds : Obligations.ResolveSaturatesAtBothEnds := by
  intro c row col hvalid
  obtain ⟨⟨hrow, -⟩, hcol, -⟩ := geometry_of_configValid hvalid
  exact ⟨toNat_clamp_zero (by omega), toNat_clamp_zero (by omega)⟩

end Sys2Proof.Machine
end

section
/-! SUPPORT and the statement on the text pseudo-instructions (44_text_output.md). -/

namespace Sys2Proof.Machine

/-- R172: a refused text stays refused, any other gets one NEXT_LINE at its end. -/
theorem expandLine_println (text : List Nat) :
    expandLine (.println text) = (expandLine (.print text)).map (· ++ [.nextLine]) := rfl

/-- Every byte is within the bounds of an unsigned operand (R93), so it is encoded as itself. -/
theorem unsignedOperand_of_value_eq_toNat {o : AsmOperand} {c : Byte} (h : o.value = some (c.toNat : Int)) :
    unsignedOperand o = some c := by
  have hbounds : (0 : Int) ≤ c.toNat ∧ (c.toNat : Int) ≤ 255 := by have := c.isLt; omega
  rw [unsignedOperand, boundedOperand, h, Option.bind_some, if_pos hbounds, Option.map_some,
    BitVec.ofInt_natCast, BitVec.ofNat_toNat, BitVec.setWidth_eq]

/-- R175: WRITE of a byte is one SEND_DATA of it. -/
theorem expandLine_write_of_value_eq_toNat {o : AsmOperand} {c : Byte} (h : o.value = some (c.toNat : Int)) :
    expandLine (.write o) = some [.sendData c] := by
  rw [expandLine, unsignedOperand_of_value_eq_toNat h, Option.map_some]

/-- Settles O53: PRINTLN is PRINT's expansion under `expandLine_println`, refused or not, and a number and a
quoted character have the same value, so `expandLine_write_of_value_eq_toNat` serves both. -/
theorem printLineIsPrintThenNextLine : Obligations.PrintLineIsPrintThenNextLine := by
  refine ⟨fun text is hprint => ?_, fun text hprint => ?_, rfl, by decide, fun c => ⟨?number, ?character⟩⟩
  · rw [expandLine_println, hprint, Option.map_some]
  · rw [expandLine_println, hprint, Option.map_none]
  case number => exact expandLine_write_of_value_eq_toNat rfl
  case character => exact expandLine_write_of_value_eq_toNat rfl

end Sys2Proof.Machine
end

section
/-! SUPPORT and the statements on the encoding (30_encoding.md). First the bits of a command byte: a form's code with
its flags, and what keeps two forms apart. -/

namespace Sys2Proof

open Sys2Proof.Machine

/-! ### Flags as masks -/

theorem and_or_eq_zero_iff (a b c : Byte) : a &&& (b ||| c) = 0 ↔ a &&& b = 0 ∧ a &&& c = 0 := by
  rw [BitVec.and_or_distrib_left]
  exact BitVec.or_eq_zero_iff

theorem and_not_of_and_eq_zero {a m : Byte} (h : a &&& m = 0) : a &&& ~~~ m = a := by
  ext i hi
  have hbit := congrArg (·.getLsbD i) h
  simp [hi] at hbit ⊢
  grind

theorem maskIf_and (m k : Byte) (c : Bool) : maskIf m c &&& k = maskIf (m &&& k) c := by
  cases c <;> simp [maskIf]

@[simp] theorem maskIf_zero (c : Bool) : maskIf 0#8 c = 0#8 := by cases c <;> rfl

theorem flagIn_of_and_eq_maskIf {m b : Byte} {c : Bool} (hm : m ≠ 0) (h : b &&& m = maskIf m c) :
    flagIn m b = c := by
  cases c
  · simp [flagIn, h, maskIf]
  · simpa [flagIn, h, maskIf] using hm

/-- The bits of a form's byte outside its flags are its code. -/
theorem flagged_and_not {p m n k : Byte} (x y z : Bool) (hp : p &&& (m ||| n ||| k) = 0) :
    (p ||| maskIf m x ||| maskIf n y ||| maskIf k z) &&& ~~~ (m ||| n ||| k) = p := by
  have hm : m &&& ~~~ (m ||| n ||| k) = 0 := by ext i hi; simp; grind
  have hn : n &&& ~~~ (m ||| n ||| k) = 0 := by ext i hi; simp; grind
  have hk : k &&& ~~~ (m ||| n ||| k) = 0 := by ext i hi; simp; grind
  simp [BitVec.and_or_distrib_right, maskIf_and, hm, hn, hk, and_not_of_and_eq_zero hp]

/-- Each flag is read back from a byte whose code and flags share no bit. -/
theorem flagIn_flagged {p m n k : Byte} (x y z : Bool) (hp : p &&& (m ||| n ||| k) = 0)
    (hmn : m &&& n = 0) (hmk : m &&& k = 0) (hnk : n &&& k = 0) :
    let b := p ||| maskIf m x ||| maskIf n y ||| maskIf k z
    (m ≠ 0 → flagIn m b = x) ∧ (n ≠ 0 → flagIn n b = y) ∧ (k ≠ 0 → flagIn k b = z) := by
  intro b
  simp only [and_or_eq_zero_iff] at hp
  obtain ⟨⟨hpm, hpn⟩, hpk⟩ := hp
  have hnm := (BitVec.and_comm n m).trans hmn
  have hkm := (BitVec.and_comm k m).trans hmk
  have hkn := (BitVec.and_comm k n).trans hnk
  have hb (q : Byte) : b &&& q = (p &&& q) ||| maskIf (m &&& q) x ||| maskIf (n &&& q) y ||| maskIf (k &&& q) z := by
    simp only [b, BitVec.and_or_distrib_right, maskIf_and]
  refine ⟨fun hm => flagIn_of_and_eq_maskIf hm ?_, fun hn => flagIn_of_and_eq_maskIf hn ?_,
    fun hk => flagIn_of_and_eq_maskIf hk ?_⟩ <;> rw [hb] <;>
    simp [hpm, hpn, hpk, hmn, hmk, hnm, hnk, hkm, hkn]

/-- A byte of a row that shares no byte with another row is not of that other row. -/
theorem and_ne_of_apart {b m p m' p' : Byte} (h : b &&& m' = p') (hapart : (p ^^^ p') &&& m &&& m' ≠ 0) :
    b &&& m ≠ p := by
  rintro rfl
  subst h
  apply hapart
  ext i hi
  simp
  grind

/-! ### The command bytes of a family -/

/-- A byte of one form is of no form that stands before it. -/
theorem not_of_earlier_row {f : Family} {before after : List (Byte × Byte)} {row : Byte × Byte} {b : Byte}
    (hf : familyDecodable f) (hrows : commandRows f = before ++ row :: after) (hb : b &&& row.1 = row.2) :
    ∀ r ∈ before, b &&& r.1 ≠ r.2 := by
  obtain ⟨-, -, -, hapart⟩ := hf
  rw [hrows, List.pairwise_append] at hapart
  exact fun r hr => and_ne_of_apart hb (hapart.2.2 r hr row (by simp))

theorem and_allOnes_eq (b : Byte) : b &&& 0xFF = b := BitVec.and_allOnes

section
variable {f : Family} (hf : familyDecodable f)
include hf

theorem decodeCommandOf_home : decodeCommandOf f f.home = .ok .cmdReturnHome := by
  have hne := not_of_earlier_row hf (before := [_]) rfl (and_allOnes_eq f.home)
  simp only [List.forall_mem_singleton, and_allOnes_eq] at hne
  rw [decodeCommandOf, if_neg hne, if_pos rfl]

theorem decodeCommandOf_entryModeSet (inc shift : Bool) :
    decodeCommandOf f (f.entryMode ||| maskIf f.emInc inc ||| maskIf f.emShift shift) =
      .ok (.cmdEntryModeSet inc shift) := by
  obtain ⟨⟨⟨hflags, hcode⟩, -⟩, hnonempty, -⟩ := id hf
  have hcode : f.entryMode &&& (f.emInc ||| f.emShift ||| 0) = 0 := by simpa using hcode
  have hrow := flagged_and_not inc shift false hcode
  obtain ⟨hinc, hshift, -⟩ := flagIn_flagged inc shift false hcode hflags BitVec.and_zero BitVec.and_zero
  simp only [BitVec.ofNat_eq_ofNat, maskIf_zero, BitVec.or_zero] at hrow hinc hshift
  have hne := not_of_earlier_row hf (before := [_, _]) rfl hrow
  simp only [List.forall_mem_cons, and_allOnes_eq] at hne hnonempty
  rw [decodeCommandOf, if_neg hne.1, if_neg hne.2.1, if_pos hrow, hinc hnonempty.1, hshift hnonempty.2.1]

theorem decodeCommandOf_displayControl (display cursor blink : Bool) :
    decodeCommandOf f (f.displayCtrl ||| maskIf f.dcDisplay display ||| maskIf f.dcCursor cursor |||
      maskIf f.dcBlink blink) = .ok (.cmdDisplayControl display cursor blink) := by
  obtain ⟨⟨-, ⟨hdc, hdb, hcb, hcode⟩, -⟩, hnonempty, -⟩ := id hf
  simp only [List.forall_mem_cons] at hnonempty
  obtain ⟨-, -, hd, hc, hb, -⟩ := hnonempty
  have hrow := flagged_and_not display cursor blink hcode
  obtain ⟨hdisplay, hcursor, hblink⟩ := flagIn_flagged display cursor blink hcode hdc hdb hcb
  have hne := not_of_earlier_row hf (before := [_, _, _]) rfl hrow
  simp only [List.forall_mem_cons, and_allOnes_eq] at hne
  obtain ⟨hne₁, hne₂, hne₃, -⟩ := hne
  rw [decodeCommandOf, if_neg hne₁, if_neg hne₂, if_neg hne₃, if_pos hrow, hdisplay hd, hcursor hc, hblink hb]

theorem decodeCommandOf_functionSet (eightBit twoLine font5x10 : Bool) :
    decodeCommandOf f (f.functionSet ||| maskIf f.fs8Bit eightBit ||| maskIf f.fs2Line twoLine |||
      maskIf f.fs5x10 font5x10) = .ok (.cmdFunctionSet eightBit twoLine font5x10) := by
  obtain ⟨⟨-, -, hel, hef, hlf, hcode⟩, hnonempty, -⟩ := id hf
  simp only [List.forall_mem_cons] at hnonempty
  obtain ⟨-, -, -, -, -, he, hl, hf5, -⟩ := hnonempty
  have hrow := flagged_and_not eightBit twoLine font5x10 hcode
  obtain ⟨height, hline, hfont⟩ := flagIn_flagged eightBit twoLine font5x10 hcode hel hef hlf
  have hne := not_of_earlier_row hf (before := [_, _, _, _]) rfl hrow
  simp only [List.forall_mem_cons, and_allOnes_eq] at hne
  obtain ⟨hne₁, hne₂, hne₃, hne₄, -⟩ := hne
  rw [decodeCommandOf, if_neg hne₁, if_neg hne₂, if_neg hne₃, if_neg hne₄, if_pos hrow, height he, hline hl,
    hfont hf5]

theorem decodeCommandOf_setDdram (a : DdramAddr) :
    decodeCommandOf f (f.setDdram ||| a.setWidth 8) = .ok (.cmdSetDDRAMAddress a) := by
  obtain ⟨-, -, hfree, -⟩ := id hf
  have hrow : (f.setDdram ||| a.setWidth 8) &&& 0x80 = f.setDdram := by
    have haddr : a.setWidth 8 &&& 0x80 = (0 : Byte) := by revert a; decide
    have hkeep := and_not_of_and_eq_zero hfree
    rw [BitVec.and_or_distrib_right, haddr]
    simpa using hkeep
  have haddr : (f.setDdram ||| a.setWidth 8).extractLsb' 0 7 = a := by
    have hlow : ∀ c : Byte, c &&& 0x7F = 0 → c.extractLsb' 0 7 = 0#7 := by decide
    rw [BitVec.extractLsb'_or, hlow _ hfree, BitVec.zero_or, BitVec.extractLsb'_setWidth_of_le (by decide),
      BitVec.extractLsb'_eq_self]
  have hne := not_of_earlier_row hf (before := [_, _, _, _, _]) rfl hrow
  simp only [List.forall_mem_cons, and_allOnes_eq] at hne
  obtain ⟨hne₁, hne₂, hne₃, hne₄, hne₅, -⟩ := hne
  rw [decodeCommandOf, if_neg hne₁, if_neg hne₂, if_neg hne₃, if_neg hne₄, if_neg hne₅, if_pos hrow, haddr]

end

/-- Settles O7: each form's byte is of no earlier form, and its flags are read back from it. -/
theorem commandBytesRoundTripInEveryFamily : Obligations.CommandBytesRoundTripInEveryFamily := by
  intro f p i b hf hb
  rw [decodeOf]
  cases i with
  | cmdClearDisplay => cases hb; exact if_pos rfl
  | cmdReturnHome => cases hb; exact decodeCommandOf_home hf
  | cmdEntryModeSet inc shift => cases hb; exact decodeCommandOf_entryModeSet hf inc shift
  | cmdDisplayControl display cursor blink => cases hb; exact decodeCommandOf_displayControl hf display cursor blink
  | cmdFunctionSet eightBit twoLine font5x10 =>
    cases hb; exact decodeCommandOf_functionSet hf eightBit twoLine font5x10
  | cmdSetDDRAMAddress addr => cases hb; exact decodeCommandOf_setDdram hf addr
  | _ => cases hb

/-! ### Transport bytes -/

theorem decode_encode_tbWrite (nibble : Nibble) (backlight enable dataSelect : Bool)
    (h : (Instr.tbWrite nibble backlight enable dataSelect).wellFormed = true) :
    decode (encode (.tbWrite nibble backlight enable dataSelect)) =
      .ok (.tbWrite nibble backlight enable dataSelect) := by
  revert nibble backlight enable dataSelect
  decide

theorem decode_encode_tbReadMode (backlight enable : Bool) :
    decode (encode (.tbReadMode backlight enable)) = .ok (.tbReadMode backlight enable) := by
  revert backlight enable
  decide

theorem decode_encode_tbBacklightOnly (backlight : Bool) :
    decode (encode (.tbBacklightOnly backlight)) = .ok (.tbBacklightOnly backlight) := by
  revert backlight
  decide

/-- What an 8-bit code of the table is read as is well formed and has that code. -/
def ReadFaithfully (c : Code) : Prop := ∀ i, decode c = .ok i → i.wellFormed = true ∧ encode i = c

theorem readFaithfully_iff (c : Code) : ReadFaithfully c ↔
    (decode c).toOption.all (fun i => i.wellFormed && decide (encode i = c)) = true := by
  unfold ReadFaithfully
  cases decode c <;> simp [Except.toOption]

theorem readFaithfully_command (b : Byte) : ReadFaithfully (.command b) := by
  rw [readFaithfully_iff]
  revert b
  decide

theorem readFaithfully_transport (b : Byte) : ReadFaithfully (.transport b) := by
  rw [readFaithfully_iff]
  revert b
  decide

/-! ### Request words -/

theorem decode_request (w : RequestWord) : decode (.request w) = .ok (decodeRequest w) := rfl

theorem packRequest_and (op a b op' a' b' : Byte) :
    packRequest op a b &&& packRequest op' a' b' = packRequest (op &&& op') (a &&& a') (b &&& b') := by
  unfold packRequest
  rw [BitVec.and_append, BitVec.and_append]

/-- A word under the mask of the operands `x` and `y`. -/
theorem and_packRequest (w : RequestWord) (x y : Byte) :
    w &&& packRequest 0xFF x y = packRequest (opField w) (aField w &&& x) (bField w &&& y) := by
  conv_lhs => rw [← packRequest_fields w, packRequest_and, and_allOnes_eq]

theorem opField_and_usedBits (w : RequestWord) (i : Instr) : opField (w &&& usedBits i) = opField w := by
  have hmask : ∃ x y, usedBits i = packRequest 0xFF x y := by
    unfold usedBits
    split
    case h_1 | h_2 => exact ⟨0xFF, 0, rfl⟩
    case h_3 | h_4 | h_5 | h_6 => exact ⟨0xFF, 0xFF, rfl⟩
    case h_7 => exact ⟨0, 0, rfl⟩
  obtain ⟨x, y, hmask⟩ := hmask
  rw [hmask, and_packRequest, opField_packRequest]

section
variable {w : RequestWord} {n : Nat} (h : (opField w).toNat = n)
include h

theorem opField_eq_ofNat : opField w = BitVec.ofNat 8 n := by
  rw [← h, BitVec.ofNat_toNat, BitVec.setWidth_eq]

/-- The word of an operation without operands (R92). -/
theorem packRequest_noOperand : packRequest (BitVec.ofNat 8 n) 0 0 = w &&& 0xFF0000 := by
  rw [← opField_eq_ofNat h]
  calc packRequest (opField w) 0 0
    _ = packRequest (opField w) (aField w &&& 0) (bField w &&& 0) := by simp
    _ = w &&& 0xFF0000 := (and_packRequest w 0 0).symm

/-- The word of an operation with the operand `a`. -/
theorem packRequest_oneOperand : packRequest (BitVec.ofNat 8 n) (aField w) 0 = w &&& 0xFFFF00 := by
  rw [← opField_eq_ofNat h]
  calc packRequest (opField w) (aField w) 0
    _ = packRequest (opField w) (aField w &&& 0xFF) (bField w &&& 0) := by
      rw [and_allOnes_eq]; simp
    _ = w &&& 0xFFFF00 := (and_packRequest w 0xFF 0).symm

/-- The word of an operation with both operand bytes. -/
theorem packRequest_twoOperands : packRequest (BitVec.ofNat 8 n) (aField w) (bField w) = w &&& 0xFFFFFF := by
  rw [← opField_eq_ofNat h]
  calc packRequest (opField w) (aField w) (bField w)
    _ = packRequest (opField w) (aField w &&& 0xFF) (bField w &&& 0xFF) := by
      rw [and_allOnes_eq, and_allOnes_eq]
    _ = w &&& 0xFFFFFF := (and_packRequest w 0xFF 0xFF).symm

end

/-- SET_BACKLIGHT's operand goes back into the two bytes it was put together from (R93). -/
theorem encode_setBacklight_append (a b : Byte) :
    encode (.setBacklight (a ++ b)) = .request (packRequest 0x0F a b) := by
  have ha : (a ++ b).extractLsb' 8 8 = a := by rw [BitVec.extractLsb'_append_eq_left]
  have hb : (a ++ b).extractLsb' 0 8 = b := by rw [BitVec.extractLsb'_append_eq_right]
  rw [encode, encodeOf]
  exact congrArg Code.request (congrArg₂ (packRequest 0x0F) ha hb)

/-- The code of what a word is read as: the word without the bits its operation does not use (R91). -/
theorem encode_decodeRequest (w : RequestWord) :
    encode (decodeRequest w) = .request (w &&& usedBits (decodeRequest w)) := by
  unfold decodeRequest
  split
  case h_2 h | h_3 h => exact congrArg Code.request (packRequest_oneOperand h)
  case h_6 h | h_18 h | h_19 h => exact congrArg Code.request (packRequest_twoOperands h)
  case h_16 h => exact (encode_setBacklight_append _ _).trans (congrArg Code.request (packRequest_twoOperands h))
  case h_20 => exact congrArg Code.request ((packRequest_noOperand rfl).symm.trans (by simp)).symm
  all_goals
    rename_i h
    exact congrArg Code.request (packRequest_noOperand h)

/-- A code from 0x13 on is read as reserved (R95). -/
theorem decodeRequest_of_reserved {w : RequestWord} (h : firstReservedOp ≤ opField w) :
    decodeRequest w = .reserved (opField w) := by
  have hop : 0x13 ≤ (opField w).toNat := h
  unfold decodeRequest
  split
  case h_20 => rfl
  all_goals omega

theorem wellFormed_decodeRequest (w : RequestWord) : (decodeRequest w).wellFormed = true := by
  unfold decodeRequest
  split
  case h_20 =>
    have hop : 0x13 ≤ (opField w).toNat := by
      by_contra hlt
      interval_cases hn : (opField w).toNat <;> contradiction
    exact decide_eq_true hop
  all_goals rfl

/-- Settles O6: a request's fields are read back from its word, a command byte is O7's with the family of R5, and the
transport bytes are finitely many. -/
theorem decodeOfEncodeIsTheInstruction : Obligations.DecodeOfEncodeIsTheInstruction := by
  intro i hi
  have hf : familyDecodable standardFamily := by decide
  cases i with
  | cmdClearDisplay | cmdReturnHome | cmdEntryModeSet | cmdDisplayControl | cmdFunctionSet | cmdSetDDRAMAddress =>
    exact commandBytesRoundTripInEveryFamily _ standardPins _ _ hf rfl
  | tbWrite => exact decode_encode_tbWrite _ _ _ _ hi
  | tbReadMode => exact decode_encode_tbReadMode _ _
  | tbBacklightOnly => exact decode_encode_tbBacklightOnly _
  | reserved op =>
    have hop : firstReservedOp ≤ opField (packRequest op 0 0) := by simpa [Instr.wellFormed] using hi
    rw [encode, encodeOf, decode_request, decodeRequest_of_reserved hop, opField_packRequest]
  | setBacklight value =>
    rw [encode, encodeOf, decode_request]
    simp [decodeRequest, wide_append_halves]
  | _ =>
    rw [encode, encodeOf, decode_request]
    simp [decodeRequest]

/-- Settles O8: for a word by `encode_decodeRequest`, for the 8-bit codes by trying them all. -/
theorem decodedCodeIsWellFormedAndFaithful : Obligations.DecodedCodeIsWellFormedAndFaithful := by
  intro c i hi
  cases c with
  | request w =>
    obtain rfl : decodeRequest w = i := Except.ok.inj hi
    exact ⟨wellFormed_decodeRequest w, _, encode_decodeRequest w, by rw [BitVec.and_assoc, BitVec.and_self]⟩
  | command b => exact readFaithfully_command b i hi
  | transport b => exact readFaithfully_transport b i hi

theorem usedBits_congr {w w' : RequestWord} (h : opField w = opField w') :
    usedBits (decodeRequest w) = usedBits (decodeRequest w') := by
  unfold decodeRequest
  rw [h]
  split <;> rfl

/-- A word without the bits its operation does not use is the same request (R91). -/
theorem decodeRequest_and_usedBits (w : RequestWord) :
    decodeRequest (w &&& usedBits (decodeRequest w)) = decodeRequest w := by
  have h := decodeOfEncodeIsTheInstruction _ (wellFormed_decodeRequest w)
  rw [encode_decodeRequest, decode_request] at h
  exact Except.ok.inj h

/-- Settles O9: the two words have the same code, so what decides the request, `decodeRequest_and_usedBits`, is the
same of both. -/
theorem unusedRequestBitsAreIgnored : Obligations.UnusedRequestBitsAreIgnored := by
  intro w w' h
  have hop : opField w = opField w' := by
    rw [← opField_and_usedBits w (decodeRequest w), h, opField_and_usedBits]
  calc decodeRequest w'
    _ = decodeRequest (w' &&& usedBits (decodeRequest w')) := (decodeRequest_and_usedBits w').symm
    _ = decodeRequest (w &&& usedBits (decodeRequest w)) := by rw [h, usedBits_congr hop]
    _ = decodeRequest w := decodeRequest_and_usedBits w

/-- Settles O5: the words are concrete. -/
theorem knownWordsDecode : Obligations.KnownWordsDecode := by
  unfold Obligations.KnownWordsDecode
  decide

end Sys2Proof
end

section
/-! SUPPORT and the statements on steps and admission (60_exceptions.md sections 1 and 3). Every request is one
`operation`, every piece of traffic one `internal`; what is proved of these two holds of every constructor. -/

namespace Sys2Proof.Machine

/-! ### The step -/

/-- The next step takes the oldest request when nothing is left to emit. -/
theorem step_request {s : State} {w : RequestWord} {rest : List RequestWord} (htodo : s.todo = [])
    (hreq : s.requests = w :: rest) : step s = exec (decodeRequest w) { s with requests := rest } := by
  simp [step, fetch, htodo, hreq, decodeOf]

theorem step_idle {s : State} (htodo : s.todo = []) (hreq : s.requests = []) : step s = .next s := by
  simp [step, fetch, htodo, hreq]

/-- The next step takes what is left to emit first. -/
theorem step_traffic {s : State} {t : Traffic} {rest : List Traffic} {i : Instr} (htodo : s.todo = t :: rest)
    (hi : decodeOf s.cfg.family s.cfg.pins t.code = .ok i) : step s = exec i { s with todo := rest } := by
  simp [step, fetch, htodo, hi]

theorem step_traffic_error {s : State} {t : Traffic} {rest : List Traffic} {e : DecodeError}
    (htodo : s.todo = t :: rest) (he : decodeOf s.cfg.family s.cfg.pins t.code = .error e) :
    step s = .fault (.notAFormOfTheBlock t.code) := by
  simp [step, fetch, htodo, he]

/-- Settles O4: the four cases of `fetch` and `decodeOf`. -/
theorem stepRunsTheFetchedInstruction : Obligations.StepRunsTheFetchedInstruction :=
  ⟨fun _ _ _ => step_request, fun _ _ _ _ => step_traffic, fun _ _ _ _ => step_traffic_error, fun _ => step_idle⟩

/-! ### Requests and traffic, one form each -/

/-- What a request does once it is let in; an instruction that is no request has none. -/
def requestBody : Instr → State → Run Byte
  | .init => returning (block [handshake, setup]) 0
  | .sendCmd value => returning (sendByte value .command) 0
  | .sendData value => returning (sendByte value .data) 0
  | .clear => fun s => returning (sendByte s.cfg.family.clear .command) 0 s
  | .home => fun s => returning (sendByte s.cfg.family.home .command) 0 s
  | .setCursor row col => fun s =>
    placeCursor (resolve s.cfg row.toInt col.toInt).1 (resolve s.cfg row.toInt col.toInt).2 s
  | .getAddr => readStatus
  | .getLine => fun s => (readStatus s).andThen fun st s => .done (BitVec.ofNat 8 (rowOf s.cfg (statusAddr st))) s
  | .isBusy => fun s => (readStatus s).andThen fun st s => .done (boolValue (statusBusy st)) s
  | .cursorOn => fun s => returning (flagUpdate .display s.cfg.family.dcCursor true) 0 s
  | .cursorOff => fun s => returning (flagUpdate .display s.cfg.family.dcCursor false) 0 s
  | .blinkOn => fun s => returning (flagUpdate .display s.cfg.family.dcBlink true) 0 s
  | .blinkOff => fun s => returning (flagUpdate .display s.cfg.family.dcBlink false) 0 s
  | .displayOn => fun s =>
    returning (block [flagUpdate .display s.cfg.family.dcDisplay true, setBacklight true]) 0 s
  | .displayOff => fun s =>
    returning (block [setBacklight false, flagUpdate .display s.cfg.family.dcDisplay false]) 0 s
  | .setBacklight value => returning (setBacklight (backlightOn value)) 0
  | .nextLine => fun s => (readStatus s).andThen fun st s =>
    placeCursor (nextRow s.cfg (rowOf s.cfg (statusAddr st))) 0 s
  | .flagSet reg mask => returning (flagUpdate (flagReg reg) mask true) 0
  | .flagClr reg mask => returning (flagUpdate (flagReg reg) mask false) 0
  | _ => fun s => .done 0 s

/-- The operand test of a request (R95, R156). -/
def legalIn (f : Family) : Instr → Bool
  | .reserved _ => false
  | .flagSet reg mask | .flagClr reg mask => flagOperandsLegal f reg mask
  | _ => true

/-- An operation runs its body on the state it is run on. -/
theorem operation_congr {need : Phase} {legal : Bool} {body body' : State → Run Byte} {s : State}
    (h : body s = body' s) : operation need legal body s = operation need legal body' s := by
  rw [operation, operation, h]

/-- Every request is one operation: this is `exec`, said once for all of them. -/
theorem exec_request {i : Instr} (hi : isRequest i = true) (s : State) :
    exec i s = operation (neededPhase i) (legalIn s.cfg.family i) (requestBody i) s := by
  cases i with
  | cmdClearDisplay | cmdReturnHome | cmdEntryModeSet | cmdDisplayControl | cmdFunctionSet | cmdSetDDRAMAddress
  | tbWrite | tbReadMode | tbBacklightOnly => cases hi
  | clear | home | cursorOn | cursorOff | blinkOn | blinkOff | displayOn | displayOff => exact operation_congr rfl
  | _ => rfl

/-- Every piece of traffic is a byte send with RS = 0 or one checked write. -/
theorem exec_traffic {i : Instr} (hi : isRequest i = false) (s : State) :
    ∃ b, exec i s = internal (sendByte b .command) s ∨ exec i s = internal (tw b) s := by
  cases i with
  | cmdClearDisplay | cmdReturnHome | cmdEntryModeSet | cmdDisplayControl | cmdFunctionSet | cmdSetDDRAMAddress =>
    exact ⟨_, .inl rfl⟩
  | tbWrite | tbReadMode | tbBacklightOnly => exact ⟨_, .inr rfl⟩
  | _ => cases hi

theorem isRequest_decodeRequest (w : RequestWord) : isRequest (decodeRequest w) = true := by
  rw [isRequest, encode_decodeRequest]

theorem legalIn_iff (f : Family) (i : Instr) : legalIn f i = true ↔ requestLegal f i := by
  have hflags (reg mask : Byte) : flagOperandsLegal f reg mask = true ↔
      (reg = 0 ∧ mask &&& ~~~ (f.emInc ||| f.emShift) = 0) ∨
      (reg = 1 ∧ mask &&& ~~~ (f.dcDisplay ||| f.dcCursor ||| f.dcBlink) = 0) := by
    have hreg : ∀ reg : Byte, reg ≤ 1 ↔ reg = 0 ∨ reg = 1 := by decide
    rw [flagOperandsLegal, Bool.and_eq_true, decide_eq_true_eq, decide_eq_true_eq, hreg, or_and_right]
    refine or_congr (and_congr_right fun h => ?_) (and_congr_right fun h => ?_) <;> subst h <;> rfl
  cases i with
  | reserved op => simp [legalIn, requestLegal]
  | flagSet reg mask | flagClr reg mask => exact hflags reg mask
  | _ => simp [legalIn, requestLegal]

/-! ### Refusals -/

theorem operation_refused {need : Phase} {legal : Bool} {body : State → Run Byte} {s : State} {st : Status}
    (h : admission need legal s = some st) : operation need legal body s = .next (respond st 0 s) := by
  rw [operation, h]

/-- With an invalid configuration the block refuses every request (R186). -/
theorem exec_configError {i : Instr} {s : State} (hi : isRequest i = true) (hcfg : configValid s.cfg = false) :
    exec i s = .next (respond .configError 0 s) := by
  rw [exec_request hi]
  exact operation_refused (by simp [admission, hcfg])

/-- Once `fault` is set every request is refused (R190). -/
theorem exec_faulted {i : Instr} {s : State} (hi : isRequest i = true) (hcfg : configValid s.cfg = true)
    (hfault : s.fault = true) : exec i s = .next (respond .faulted 0 s) := by
  rw [exec_request hi]
  exact operation_refused (by simp [admission, hcfg, hfault])

/-- An illegal request is refused whatever the phase (R189). -/
theorem exec_illegal {i : Instr} {s : State} (hi : isRequest i = true) (hcfg : configValid s.cfg = true)
    (hfault : s.fault = false) (hlegal : ¬ requestLegal s.cfg.family i) :
    exec i s = .next (respond .illegalRequest 0 s) := by
  rw [← legalIn_iff, Bool.not_eq_true] at hlegal
  rw [exec_request hi]
  exact operation_refused (by simp [admission, hcfg, hfault, hlegal])

/-- A legal request in another phase than it needs is refused (R188). -/
theorem exec_notReady {i : Instr} {s : State} (hi : isRequest i = true) (hcfg : configValid s.cfg = true)
    (hfault : s.fault = false) (hlegal : requestLegal s.cfg.family i) (hphase : s.phase ≠ neededPhase i) :
    exec i s = .next (respond .notReady 0 s) := by
  rw [← legalIn_iff] at hlegal
  rw [exec_request hi]
  exact operation_refused (by simp [admission, hcfg, hfault, hlegal, hphase])

/-- Settles O40: `respond` changes the responses only. -/
theorem admissionOrderAndNoEffect : Obligations.AdmissionOrderAndNoEffect :=
  fun _ _ hi => ⟨exec_configError hi, exec_faulted hi, exec_illegal hi, exec_notReady hi⟩

/-- Settles O41: a reserved code is never legal. -/
theorem reservedRequestsAnswerIllegal : Obligations.ReservedRequestsAnswerIllegal :=
  ⟨fun _ => decodeRequest_of_reserved, fun _ _ hcfg hfault => exec_illegal rfl hcfg hfault id⟩

/-- Settles O52: `internal`, the one form of traffic, tests both. -/
theorem deadInstanceSendsNoTraffic : Obligations.DeadInstanceSendsNoTraffic := by
  intro i s hi hdead
  have hinternal (p : State → Run Unit) : internal p s = .next s := by
    rcases hdead with h | h <;> simp [internal, h]
  obtain ⟨b, h | h⟩ := exec_traffic hi s <;> rw [h, hinternal]

/-! ### Runs of refusals -/

/-- A run takes its first step, then runs on. -/
theorem run_succ {k : Nat} {s t : State} (h : step s = .next t) :
    Sys2Proof.core.run (k + 1) s = Sys2Proof.core.run k t := by
  show Host.Core.run Sys2Proof.core (Nat.succ k) s = _
  have hstep : Sys2Proof.core.step s = .next t := h
  simp only [Host.Core.run, hstep]

/-- A block that refuses every request with one status, whatever waits and whatever was answered, does so for ever. -/
theorem run_refusing {st : Status} {s : State} (htodo : s.todo = [])
    (hrefuse : ∀ i ws rs, isRequest i = true →
      exec i { s with requests := ws, responses := rs } =
        .next (respond st 0 { s with requests := ws, responses := rs })) (k : Nat) :
    Sys2Proof.core.run k s = .next
      { s with
        requests := s.requests.drop k
        responses := s.responses ++ List.replicate (min k s.requests.length) ⟨st, 0⟩ } := by
  induction k generalizing s with
  | zero => simp [Host.Core.run]
  | succ k ih =>
    rcases hreq : s.requests with _ | ⟨w, rest⟩
    · have hrun := ih htodo hrefuse
      rw [run_succ (step_idle htodo hreq)]
      simpa [hreq] using hrun
    · have hrun := ih (s := respond st 0 { s with requests := rest }) htodo hrefuse
      rw [run_succ ((step_request htodo hreq).trans (hrefuse _ rest s.responses (isRequest_decodeRequest w)))]
      refine hrun.trans ?_
      simp [respond, List.replicate_succ]

/-- Settles O42: a refusal changes neither the configuration nor what is left to emit. -/
theorem invalidConfigurationIsInertForEver : Obligations.InvalidConfigurationIsInertForEver :=
  fun _ k htodo hcfg => run_refusing htodo (fun _ _ _ hi => exec_configError hi hcfg) k

/-- Settles O43: a refusal does not clear `fault`. -/
theorem faultIsForEver : Obligations.FaultIsForEver :=
  fun _ k htodo hcfg hfault => run_refusing htodo (fun _ _ _ hi => exec_faulted hi hcfg hfault) k

end Sys2Proof.Machine
end

section
/-! SUPPORT and the statements on results: what each operation that is built of byte sends and one register does when
its accesses succeed (40, 43 and 45). -/

namespace Sys2Proof.Machine

/-! ### From a procedure to the request -/

theorem returning_done {p : State → Run Unit} {s t : State} (v : Byte) (h : p s = .done () t) :
    returning p v s = .done v t := by
  rw [returning, h, andThen_done]

theorem returning_failed {p : State → Run Unit} {s t : State} (v : Byte) (h : p s = .failed t) :
    returning p v s = .failed t := by
  rw [returning, h, andThen_failed]

theorem block_pair_done {p q : State → Run Unit} {s t u : State} (hp : p s = .done () t) (hq : q t = .done () u) :
    block [p, q] s = .done () u := by
  rw [block_cons, hp, andThen_done, block_cons, hq, andThen_done, block_nil]

/-- A request that is let in and whose procedure ends in `t` answers OK from there. -/
theorem exec_done {i : Instr} {s t : State} {v : Byte} (hi : isRequest i = true)
    (hlegal : legalIn s.cfg.family i = true) (ha : s.admitted (neededPhase i)) (hb : requestBody i s = .done v t) :
    exec i s = .next (respond .ok v t) := by
  rw [exec_request hi]
  exact operation_done hlegal ha hb

/-- A request that is let in and whose procedure is cut answers TRANSPORT_FAILURE (R194). -/
theorem exec_failed {i : Instr} {s t : State} (hi : isRequest i = true) (hlegal : legalIn s.cfg.family i = true)
    (ha : s.admitted (neededPhase i)) (hb : requestBody i s = .failed t) :
    exec i s = .next (respond .transportFailure 0 t) := by
  rw [exec_request hi]
  exact operation_failed hlegal ha hb

/-! ### Byte sends -/

/-- A command byte, when its six writes succeed. -/
theorem sendCommand_ok (v : Byte) {s : State} (h : s.accessesOk 6) :
    sendByte v .command s =
      .done () (s.advanced (commandTrace s.cfg s.bl v) (lowByte s.cfg s.bl v 0x00) 6) := sendByte_ok v .command h

/-- A data byte, when its six writes succeed. -/
theorem sendData_ok (v : Byte) {s : State} (h : s.accessesOk 6) :
    sendByte v .data s =
      .done () (s.advanced (dataTrace s.cfg s.bl v) (lowByte s.cfg s.bl v s.cfg.pins.rs) 6) := sendByte_ok v .data h

/-- A request that is one command send. -/
theorem exec_sendsCommand {i : Instr} {s : State} {b v : Byte} (hi : isRequest i = true)
    (hlegal : legalIn s.cfg.family i = true) (ha : s.admitted (neededPhase i)) (hok : s.accessesOk 6)
    (hb : requestBody i s = returning (sendByte b .command) v s) :
    exec i s = .next (s.completed (commandTrace s.cfg s.bl b) (lowByte s.cfg s.bl b 0x00) 6 v) :=
  exec_done hi hlegal ha (hb.trans (returning_done v (sendCommand_ok b hok)))

theorem exec_sendCmd (v : Byte) {s : State} (ha : s.admitted .ready) (hok : s.accessesOk 6) :
    exec (.sendCmd v) s =
      .next (s.completed (commandTrace s.cfg s.bl v) (lowByte s.cfg s.bl v 0x00) 6 0) :=
  exec_sendsCommand rfl rfl ha hok rfl

theorem exec_sendData (v : Byte) {s : State} (ha : s.admitted .ready) (hok : s.accessesOk 6) :
    exec (.sendData v) s =
      .next (s.completed (dataTrace s.cfg s.bl v) (lowByte s.cfg s.bl v s.cfg.pins.rs) 6 0) :=
  exec_done rfl rfl ha (returning_done 0 (sendData_ok v hok))

/-- Settles O12: each is one byte send that answers 0. -/
theorem sendCommandAndSendDataResult : Obligations.SendCommandAndSendDataResult :=
  fun v _ ha hok => ⟨exec_sendCmd v ha hok, exec_sendData v ha hok⟩

/-- Settles O13: both are one command send, of the configuration's code. -/
theorem clearAndHomeResult : Obligations.ClearAndHomeResult :=
  fun _ ha hok => ⟨exec_sendsCommand rfl rfl ha hok rfl, exec_sendsCommand rfl rfl ha hok rfl⟩

/-! ### Nibbles -/

/-- The four pins of R80 leave the nibble of a transport byte alone. -/
theorem hiNibble_highByte {c : Config} (hpins : c.pins = standardPins) (bl : Bool) (v : Byte) :
    hiNibble (highByte c bl v 0x00) = hiNibble v := by
  rw [highByte, backlightBits, hpins]
  revert v
  cases bl <;> decide

theorem hiNibble_lowByte {c : Config} (hpins : c.pins = standardPins) (bl : Bool) (v : Byte) :
    hiNibble (lowByte c bl v 0x00) = loNibble v := by
  rw [lowByte, backlightBits, hpins]
  revert v
  cases bl <;> decide

theorem hiNibble_or_en (b : Byte) {c : Config} (hpins : c.pins = standardPins) :
    hiNibble (b ||| c.pins.en) = hiNibble b := by
  rw [hpins]
  revert b
  decide

theorem writtenBytes_nibbleTrace (c : Config) (b : Byte) :
    writtenBytes (nibbleTrace c b) = [b, b ||| c.pins.en, b] := rfl

/-- The bytes of a byte send (R112). -/
theorem writtenBytes_byteTrace (c : Config) (bl : Bool) (v rs : Byte) (t : Nat) :
    writtenBytes (byteTrace c bl v rs t) =
      [highByte c bl v rs, highByte c bl v rs ||| c.pins.en, highByte c bl v rs,
        lowByte c bl v rs, lowByte c bl v rs ||| c.pins.en, lowByte c bl v rs] := rfl

/-- What comes back in bits 3:0 of the two read bytes of a status read does not show (R55). -/
theorem assembleStatus_nibbles (v : Byte) (x y : Nibble) :
    assembleStatus (nibbleBits (hiNibble v) ||| x.setWidth 8) (nibbleBits (loNibble v) ||| y.setWidth 8) = v := by
  have hfirst : ∀ n x : Nibble, (nibbleBits n ||| x.setWidth 8) &&& 0xF0 = nibbleBits n := by decide
  have hsecond : ∀ n x : Nibble, (nibbleBits n ||| x.setWidth 8) >>> 4 = n.setWidth 8 := by decide
  have hwhole : ∀ v : Byte, nibbleBits (hiNibble v) ||| (loNibble v).setWidth 8 = v := by decide
  exact (congrArg₂ (· ||| ·) (hfirst _ _) (hsecond _ _)).trans (hwhole v)

/-- Settles O10: the bytes by evaluation; the twelve bytes of SEND_CMD show their nibbles whatever the backlight is. -/
theorem byteSplitAndReassembledIsUnchanged : Obligations.ByteSplitAndReassembledIsUnchanged := by
  refine ⟨by decide, assembleStatus_nibbles, by decide, by decide, fun s hpins ha hok => ?_⟩
  refine ⟨_, _, exec_sendCmd 0xD5 ha hok, rfl, ?_⟩
  rw [commandTrace, writtenBytes_byteTrace]
  simp only [List.map, hiNibble_or_en _ hpins, hiNibble_highByte hpins, hiNibble_lowByte hpins]
  decide

/-! ### The pins of a sent byte -/

/-- With the masks of R80: E is low, the direction is write, and bit 3 is the backlight (R81). -/
structure PinsSettled (bl : Bool) (b : Byte) : Prop where
  write : b.getLsbD 1 = false
  enableLow : b.getLsbD 2 = false
  backlight : b.getLsbD 3 = bl

theorem pinsSettled_iff (bl : Bool) (b : Byte) :
    PinsSettled bl b ↔ b.getLsbD 1 = false ∧ b.getLsbD 2 = false ∧ b.getLsbD 3 = bl :=
  ⟨fun ⟨h₁, h₂, h₃⟩ => ⟨h₁, h₂, h₃⟩, fun ⟨h₁, h₂, h₃⟩ => ⟨h₁, h₂, h₃⟩⟩

theorem pinsSettled_highByte {c : Config} (hpins : c.pins = standardPins) (bl : Bool) (v : Byte) :
    PinsSettled bl (highByte c bl v 0x00) := by
  rw [pinsSettled_iff, highByte, backlightBits, hpins]
  revert v
  cases bl <;> decide

theorem pinsSettled_lowByte {c : Config} (hpins : c.pins = standardPins) (bl : Bool) (v : Byte) :
    PinsSettled bl (lowByte c bl v 0x00) := by
  rw [pinsSettled_iff, lowByte, backlightBits, hpins]
  revert v
  cases bl <;> decide

theorem pinsSettled_or_rs {bl : Bool} {b : Byte} (h : PinsSettled bl b) : PinsSettled bl (b ||| standardPins.rs) := by
  obtain ⟨hw, he, hb⟩ := h
  constructor <;> simpa [standardPins]

/-- The payload bytes of a command have bit 0 clear (R118). -/
theorem select_highByte {c : Config} (hpins : c.pins = standardPins) (bl : Bool) (v : Byte) :
    (highByte c bl v 0x00).getLsbD 0 = false := by
  rw [highByte, backlightBits, hpins]
  revert v
  cases bl <;> decide

theorem select_lowByte {c : Config} (hpins : c.pins = standardPins) (bl : Bool) (v : Byte) :
    (lowByte c bl v 0x00).getLsbD 0 = false := by
  rw [lowByte, backlightBits, hpins]
  revert v
  cases bl <;> decide

/-- RS is one more bit of the payload byte (R112). -/
theorem highByte_eq_or (c : Config) (bl : Bool) (v rs : Byte) : highByte c bl v rs = highByte c bl v 0x00 ||| rs := by
  simp [highByte]

theorem lowByte_eq_or (c : Config) (bl : Bool) (v rs : Byte) : lowByte c bl v rs = lowByte c bl v 0x00 ||| rs := by
  simp [lowByte]

/-- Settles O14: the payload bytes of the command have bit 0 clear, those of the data are the same with RS added. -/
theorem commandAndDataTracesDifferInSelectAndSettle : Obligations.CommandAndDataTracesDifferInSelectAndSettle := by
  intro v s hpins ha hok
  obtain ⟨h, hh⟩ : ∃ h, h = highByte s.cfg s.bl v 0x00 := ⟨_, rfl⟩
  obtain ⟨l, hl⟩ : ∃ l, l = lowByte s.cfg s.bl v 0x00 := ⟨_, rfl⟩
  have hhp := pinsSettled_highByte hpins s.bl v
  have hlp := pinsSettled_lowByte hpins s.bl v
  have hhs := select_highByte hpins s.bl v
  have hls := select_lowByte hpins s.bl v
  rw [← hh] at hhp hhs
  rw [← hl] at hlp hls
  have hrs : s.cfg.pins.rs = 0x01 := by rw [hpins]; rfl
  have hen : s.cfg.pins.en = 0x04 := by rw [hpins]; rfl
  refine ⟨_, _, _, _, nibbleTrace s.cfg h ++ nibbleTrace s.cfg l,
    exec_sendCmd v ha hok, exec_sendData v ha hok, ?_, ?_, rfl, rfl, ?_, ?_⟩
  · simp [commandTrace, byteTrace, hh, hl]
  · have hswap (b : Byte) : b ||| 0x01 ||| 0x04 = b ||| 0x04 ||| 0x01 := by
      rw [BitVec.or_assoc, BitVec.or_assoc, BitVec.or_comm 0x01]
    show s.trace ++ dataTrace s.cfg s.bl v = _
    rw [dataTrace, byteTrace, highByte_eq_or, lowByte_eq_or, hrs, ← hh, ← hl]
    simp [nibbleTrace, hen]
    exact ⟨hswap h, hswap l⟩
  · simp only [writtenBytes_append, writtenBytes_nibbleTrace, hen, List.cons_append, List.nil_append, List.map,
      BitVec.getLsbD_or, hhp.enableLow, hlp.enableLow]
    decide
  · simp only [writtenBytes_append, writtenBytes_nibbleTrace, hen, List.cons_append, List.nil_append,
      List.forall_mem_cons, BitVec.getLsbD_or, hhp.write, hhp.backlight, hhs, hlp.write, hlp.backlight, hls]
    simp

/-! ### Flag updates -/

/-- A flag update, when its six writes succeed: the shadow is written, then sent whole (R155). -/
theorem flagUpdate_ok (reg : FlagReg) (mask : Byte) (set : Bool) {s : State} (h : s.accessesOk 6) :
    flagUpdate reg mask set s = .done ()
      ((setShadow reg (maskedUpdate (shadowOf s reg) mask set) s).advanced
        (commandTrace s.cfg s.bl (maskedUpdate (shadowOf s reg) mask set))
        (lowByte s.cfg s.bl (maskedUpdate (shadowOf s reg) mask set) 0x00) 6) := by
  cases reg <;> exact sendCommand_ok _ h

/-- With configuration `c` the request is a legal one whose only act is this flag update. -/
structure UpdatesFlag (c : Config) (i : Instr) (reg : FlagReg) (mask : Byte) (set : Bool) : Prop where
  request : isRequest i = true
  legal : legalIn c.family i = true
  phase : neededPhase i = .ready
  body : ∀ s : State, s.cfg = c → requestBody i s = returning (flagUpdate reg mask set) 0 s

theorem updatesFlag_cursorOn (c : Config) : UpdatesFlag c .cursorOn .display c.family.dcCursor true :=
  ⟨rfl, rfl, rfl, fun _ h => h ▸ rfl⟩

theorem updatesFlag_cursorOff (c : Config) : UpdatesFlag c .cursorOff .display c.family.dcCursor false :=
  ⟨rfl, rfl, rfl, fun _ h => h ▸ rfl⟩

theorem updatesFlag_blinkOn (c : Config) : UpdatesFlag c .blinkOn .display c.family.dcBlink true :=
  ⟨rfl, rfl, rfl, fun _ h => h ▸ rfl⟩

theorem updatesFlag_blinkOff (c : Config) : UpdatesFlag c .blinkOff .display c.family.dcBlink false :=
  ⟨rfl, rfl, rfl, fun _ h => h ▸ rfl⟩

theorem updatesFlag_flagSet {c : Config} {reg mask : Byte} (h : requestLegal c.family (.flagSet reg mask)) :
    UpdatesFlag c (.flagSet reg mask) (flagReg reg) mask true :=
  ⟨rfl, (legalIn_iff _ _).2 h, rfl, fun _ _ => rfl⟩

theorem updatesFlag_flagClr {c : Config} {reg mask : Byte} (h : requestLegal c.family (.flagClr reg mask)) :
    UpdatesFlag c (.flagClr reg mask) (flagReg reg) mask false :=
  ⟨rfl, (legalIn_iff _ _).2 h, rfl, fun _ _ => rfl⟩

/-- What a request that is one flag update does when its accesses succeed. -/
theorem UpdatesFlag.exec {i : Instr} {s : State} {reg : FlagReg} {mask : Byte} {set : Bool}
    (h : UpdatesFlag s.cfg i reg mask set) (ha : s.admitted .ready) (hok : s.accessesOk 6) :
    exec i s = .next ((setShadow reg (maskedUpdate (shadowOf s reg) mask set) s).completed
        (commandTrace s.cfg s.bl (maskedUpdate (shadowOf s reg) mask set))
        (lowByte s.cfg s.bl (maskedUpdate (shadowOf s reg) mask set) 0x00) 6 0) :=
  exec_done h.request h.legal (h.phase ▸ ha) ((h.body s rfl).trans (returning_done 0 (flagUpdate_ok reg mask set hok)))

/-- Two of them on one shadow, one after the other. -/
theorem UpdatesFlag.exec_exec {i j : Instr} {s : State} {reg : FlagReg} {mask mask' : Byte} {set set' : Bool}
    (hi : UpdatesFlag s.cfg i reg mask set) (hj : UpdatesFlag s.cfg j reg mask' set') (ha : s.admitted .ready)
    (hok : s.accessesOk 12) :
    ∃ t u : State, Machine.exec i s = .next t ∧ Machine.exec j t = .next u ∧
      ∃ v, v = maskedUpdate (maskedUpdate (shadowOf s reg) mask set) mask' set' ∧
        u.em = (setShadow reg v s).em ∧ u.dc = (setShadow reg v s).dc := by
  have hok₂ := accessesOk_advanced (m := 6) (n := 6) (commandTrace s.cfg s.bl (maskedUpdate (shadowOf s reg) mask set))
    (lowByte s.cfg s.bl (maskedUpdate (shadowOf s reg) mask set) 0x00) hok
  cases reg <;> exact ⟨_, _, hi.exec ha (accessesOk_mono (by omega) hok), UpdatesFlag.exec hj ha hok₂, _, rfl, rfl, rfl⟩

/-- Settles O27: each of the four is one flag update of DC. -/
theorem cursorAndBlinkResults : Obligations.CursorAndBlinkResults :=
  fun s ha hok => ⟨(updatesFlag_cursorOn s.cfg).exec ha hok, (updatesFlag_cursorOff s.cfg).exec ha hok,
    (updatesFlag_blinkOn s.cfg).exec ha hok, (updatesFlag_blinkOff s.cfg).exec ha hok⟩

/-- Settles O28: under a legal mask each of the four is one flag update of the shadow `reg` names. -/
theorem flagSetAndFlagClearResults : Obligations.FlagSetAndFlagClearResults := by
  intro mask s ha hok
  refine ⟨fun hmask => ?entry, fun hmask => ?display⟩
  case entry => exact ⟨(updatesFlag_flagSet (.inl ⟨rfl, hmask⟩)).exec ha hok,
    (updatesFlag_flagClr (.inl ⟨rfl, hmask⟩)).exec ha hok⟩
  case display => exact ⟨(updatesFlag_flagSet (.inr ⟨rfl, hmask⟩)).exec ha hok,
    (updatesFlag_flagClr (.inr ⟨rfl, hmask⟩)).exec ha hok⟩

/-! ### The backlight -/

/-- SetBacklight, when its write succeeds (R180). -/
theorem setBacklight_ok (v : Bool) {s : State} (h : s.accessesOk 1) :
    setBacklight v s = .done ()
      (({ s with bl := v } : State).advanced [.write (backlightBits s.cfg v)] (backlightBits s.cfg v) 1) :=
  tw_ok _ h

/-- Settles O29: the first procedure's accesses are the first of those that succeed. A register set in between does
not stop one advance from going on where the other ended (`advanced_advanced`). -/
theorem displayOnAndOffResults : Obligations.DisplayOnAndOffResults := by
  intro s on off ha hok hon hoff
  constructor
  · have hok₂ := accessesOk_advanced (m := 6) (n := 1) (s := { s with dc := on }) (commandTrace s.cfg s.bl on)
      (lowByte s.cfg s.bl on 0x00) hok
    have hflag := flagUpdate_ok .display s.cfg.family.dcDisplay true (accessesOk_mono (by omega) hok)
    have hlight := setBacklight_ok true hok₂
    have hall := advanced_advanced (commandTrace s.cfg s.bl on) [.write s.cfg.pins.bl] (lowByte s.cfg s.bl on 0x00)
      s.cfg.pins.bl 6 1 { s with dc := on, bl := true }
    subst hon
    exact exec_done (i := .displayOn) rfl rfl ha
      (returning_done 0 (block_pair_done hflag (hlight.trans (congrArg (Run.done ()) hall))))
  · have hok₂ := accessesOk_advanced (m := 1) (n := 6) (s := { s with bl := false }) [.write 0x00] 0x00 hok
    have hlight := setBacklight_ok false (accessesOk_mono (by omega) hok)
    have hflag := flagUpdate_ok .display s.cfg.family.dcDisplay false hok₂
    have hall := advanced_advanced [.write 0x00] (commandTrace s.cfg false off) 0x00 (lowByte s.cfg false off 0x00) 1 6
      { s with dc := off, bl := false }
    subst hoff
    exact exec_done (i := .displayOff) rfl rfl ha
      (returning_done 0 (block_pair_done hlight (hflag.trans (congrArg (Run.done ()) hall))))

/-- A failing first write of SET_BACKLIGHT, with all that stands then. -/
theorem exec_setBacklight_failed {value : BitVec 16} {s : State} {rest : List Answer} (ha : s.admitted .ready)
    (hsim : s.cfg.sim = false) (hfail : s.answers = .fail :: rest) :
    exec (.setBacklight value) s = .next { s with
      bl := backlightOn value
      fault := true
      trace := s.trace ++ [.writeFail (backlightBits s.cfg (backlightOn value))]
      answers := rest
      responses := s.responses ++ [⟨.transportFailure, 0⟩] } := by
  have hcut : setBacklight (backlightOn value) s = .failed _ := tw_fail _ hsim hfail
  exact exec_failed (i := .setBacklight value) rfl rfl ha (returning_failed 0 hcut)

/-- Settles O35: the refusals are those of every request, and each result is split as `backlightOn` decides. -/
theorem setBacklightWhole : Obligations.SetBacklightWhole := by
  refine ⟨fun a b => by simp [decodeRequest], fun value s => ⟨exec_configError rfl, exec_faulted rfl,
    fun hcfg hfault => exec_notReady (i := .setBacklight value) rfl hcfg hfault trivial,
    fun ha hok => ?_, fun rest ha hsim hfail => ?_⟩⟩
  · have hdone := exec_done (i := .setBacklight value) rfl rfl ha (returning_done 0 (setBacklight_ok _ hok))
    by_cases hpos : 0 < value.toInt
    · rw [backlightOn, decide_eq_true hpos] at hdone
      rw [if_pos hpos]
      exact hdone
    · rw [backlightOn, decide_eq_false hpos] at hdone
      rw [if_neg hpos]
      exact hdone
  · rw [exec_setBacklight_failed ha hsim hfail, backlightBits]
    simp [backlightOn]

/-! ### Flags set and cleared in turn -/

theorem or_and_not_eq_self_iff (d m : Byte) : (d ||| m) &&& ~~~ m = d ↔ d &&& m = 0 := by
  have hdrop : (d ||| m) &&& ~~~ m = d &&& ~~~ m := by ext i hi; simp; grind
  rw [hdrop]
  refine ⟨fun h => ?_, and_not_of_and_eq_zero⟩
  rw [← h]
  ext i hi
  simp

theorem and_not_or_eq_self_iff (d m : Byte) : (d &&& ~~~ m) ||| m = d ↔ d &&& m = m := by
  have hdrop : (d &&& ~~~ m) ||| m = d ||| m := by ext i hi; simp; grind
  rw [hdrop]
  constructor <;> intro h <;> rw [← h] <;> ext i hi <;> simp <;> grind

/-- Settles O31: what two updates leave in DC, and `or_and_not_eq_self_iff` or `and_not_or_eq_self_iff`. -/
theorem flagPairsRoundTripExactlyWhen : Obligations.FlagPairsRoundTripExactlyWhen := by
  intro s ha hok
  obtain ⟨a, a', ha₁, ha₂, _, rfl, -, hav⟩ :=
    (updatesFlag_cursorOn s.cfg).exec_exec (updatesFlag_cursorOff s.cfg) ha hok
  obtain ⟨b, b', hb₁, hb₂, _, rfl, -, hbv⟩ :=
    (updatesFlag_cursorOff s.cfg).exec_exec (updatesFlag_cursorOn s.cfg) ha hok
  obtain ⟨c, c', hc₁, hc₂, _, rfl, -, hcv⟩ :=
    (updatesFlag_blinkOn s.cfg).exec_exec (updatesFlag_blinkOff s.cfg) ha hok
  obtain ⟨d, d', hd₁, hd₂, _, rfl, -, hdv⟩ :=
    (updatesFlag_blinkOff s.cfg).exec_exec (updatesFlag_blinkOn s.cfg) ha hok
  exact ⟨a, b, c, d, a', b', c', d', ⟨ha₁, ha₂, hav ▸ or_and_not_eq_self_iff _ _⟩,
    ⟨hb₁, hb₂, hbv ▸ and_not_or_eq_self_iff _ _⟩, ⟨hc₁, hc₂, hcv ▸ or_and_not_eq_self_iff _ _⟩,
    ⟨hd₁, hd₂, hdv ▸ and_not_or_eq_self_iff _ _⟩⟩

/-- Settles O33: clearing every flag leaves the hardwired bits, which the invariant gives; the rest is about single
bytes. -/
theorem everyShadowValueIsReachable : Obligations.EveryShadowValueIsReachable := by
  intro s v hfam hinv ha hok
  have hdc : s.dc &&& ~~~ 0x07 = 0x08 := by
    have h := hinv.dcPrefix
    rw [hfam] at h
    exact h
  have hem : s.em &&& ~~~ 0x03 = 0x04 := by
    have h := hinv.emPrefix
    rw [hfam] at h
    exact h
  have hbounds : (∀ d : Byte, d &&& ~~~ 0x07 = 0x08 → 0x08 ≤ d ∧ d ≤ 0x0F) ∧
      ∀ e : Byte, e &&& ~~~ 0x03 = 0x04 → 0x04 ≤ e ∧ e ≤ 0x07 := by decide
  have hvalues : (∀ v : Byte, 0x08 ≤ v → v ≤ 0x0F → 0x08 ||| (v &&& 0x07) = v) ∧
      ∀ v : Byte, 0x04 ≤ v → v ≤ 0x07 → 0x04 ||| (v &&& 0x03) = v := by decide
  have hmasks : ∀ v : Byte, requestLegal s.cfg.family (.flagSet 1 (v &&& 0x07)) ∧
      requestLegal s.cfg.family (.flagSet 0 (v &&& 0x03)) := by
    have h : ∀ v : Byte, v &&& 0x07 &&& ~~~ 0x07 = 0 ∧ v &&& 0x03 &&& ~~~ 0x03 = 0 := by decide
    rw [hfam]
    exact fun v => ⟨.inr ⟨rfl, (h v).1⟩, .inl ⟨rfl, (h v).2⟩⟩
  refine ⟨fun hlo hhi => ?display, fun hlo hhi => ?entry, hbounds.1 _ hdc, hbounds.2 _ hem⟩
  case display =>
    obtain ⟨t, u, ht, hu, w, hw, huem, hudc⟩ :=
      (updatesFlag_flagClr (hmasks 0xFF).1).exec_exec (updatesFlag_flagSet (hmasks v).1) ha hok
    refine ⟨t, u, ht, hu, hudc.trans (hw.trans ?_), huem⟩
    exact (congrArg (· ||| (v &&& 0x07)) hdc).trans (hvalues.1 v hlo hhi)
  case entry =>
    obtain ⟨t, u, ht, hu, w, hw, huem, hudc⟩ :=
      (updatesFlag_flagClr (hmasks 0xFF).2).exec_exec (updatesFlag_flagSet (hmasks v).2) ha hok
    refine ⟨t, u, ht, hu, huem.trans (hw.trans ?_), hudc⟩
    exact (congrArg (· ||| (v &&& 0x03)) hem).trans (hvalues.2 v hlo hhi)

/-! ### Traffic -/

theorem internal_done {p : State → Run Unit} {s t : State} (hcfg : configValid s.cfg = true) (hfault : s.fault = false)
    (hp : p s = .done () t) : internal p s = .next t := by
  simp [internal, hcfg, hfault, hp]

/-- Settles O50: each row is one command send, of the byte the configuration encodes it as. -/
theorem commandBytesGoOutAsTwoNibbles : Obligations.CommandBytesGoOutAsTwoNibbles := by
  intro s p q r a hcfg hfault hok
  have hsent (v : Byte) := internal_done hcfg hfault (sendCommand_ok v hok)
  exact ⟨hsent _, hsent _, hsent _, hsent _, hsent _, hsent _⟩

/-- Settles O51: each row is one checked write, and with the pins of R80 its byte is the sum of its fields. -/
theorem transportBytesAreOneWrite : Obligations.TransportBytesAreOneWrite := by
  intro s n b e r hpins hcfg hfault hok
  have hwritten (v : Byte) := internal_done hcfg hfault (tw_ok v hok)
  have hw : ∀ (n : Nibble) (b e r : Bool), codeByte (encodeOf standardFamily standardPins (.tbWrite n b e r)) =
      BitVec.ofNat 8 (16 * n.toNat + (if b then 8 else 0) + (if e then 4 else 0) + (if r then 1 else 0)) := by decide
  have hr : ∀ b e : Bool, codeByte (encodeOf standardFamily standardPins (.tbReadMode b e)) =
      0xF2 ||| (if b then 0x08 else 0) ||| (if e then 0x04 else 0) := by decide
  have hb : ∀ b : Bool, codeByte (encodeOf standardFamily standardPins (.tbBacklightOnly b)) =
      if b then 0x08 else 0x00 := by decide
  have hexec (i : Instr) : emitTransport i s = .next (s.advanced
      [.write (codeByte (encodeOf s.cfg.family standardPins i))]
      (codeByte (encodeOf s.cfg.family standardPins i)) 1) := by
    rw [emitTransport, hpins, hwritten]
  intro written
  rw [← hw n b e r, ← hr b e, ← hb b]
  exact ⟨hexec (.tbWrite n b e r), hexec (.tbReadMode b e), hexec (.tbBacklightOnly b)⟩

end Sys2Proof.Machine
end

section
/-! SUPPORT and the statements on the cursor mapper and the status readback (42_cursor_mapper.md, 44_text_output.md). -/

namespace Sys2Proof.Machine

/-! ### AddrOf (R141) -/

/-- With a base alone nothing is added, whatever the row bases. -/
theorem addrOf_zero (t : RowBases) (r : Nat) : addrOf t r 0 = rowBase t r := by
  have hbase := (rowBase t r).isLt
  exact BitVec.eq_of_toNat_eq (addrOf_toNat t r 0 (by omega))

/-- With the bases of R27 the last address of a row of at most 40 columns is at most 0x7B. -/
theorem rowBase_add_le {r k : Nat} (hr : r < 4) (hk : k < 40) : (rowBase standardRowBases r).toNat + k ≤ 0x7B := by
  have hbase : ∀ r < 4, (rowBase standardRowBases r).toNat ≤ 0x54 := by decide
  have := hbase r hr
  omega

/-- SetDDRAMAddress adds 0x80 without a carry (R7). -/
theorem setDdramByte_toNat (a : DdramAddr) : (setDdramByte standardFamily a).toNat = 0x80 + a.toNat := by
  revert a
  decide

/-- Settles O16: the sum is at most 0x7B, so neither the address nor the command byte wraps. -/
theorem addressIsRowBasePlusColumn : Obligations.AddressIsRowBasePlusColumn := by
  refine ⟨fun c r k hvalid hbases hr hk => ?_, rfl, rfl, rfl, rfl⟩
  obtain ⟨⟨-, hrows⟩, -, hcols⟩ := geometry_of_configValid hvalid
  have hle := rowBase_add_le (r := r) (k := k) (by omega) (by omega)
  rw [hbases, setDdramByte_toNat, addrOf_toNat _ _ _ (by omega)]
  omega

/-! ### RowOf (R146) -/

/-- RowOf answers the greatest base that is at most the address. -/
theorem rowBase_le_rowOf (c : Config) (a : DdramAddr) {r : Nat} (hr : r < c.rows.toNat)
    (hle : rowBase c.rowBases r ≤ a) :
    rowBase c.rowBases r ≤ rowBase c.rowBases (rowOf c a) := by
  have hmem := (mem_descendingBases c _).2 ⟨r, hr, rfl⟩
  unfold rowOf
  cases hf : (descendingBases c).find? fun p => decide (p.1 ≤ a) with
  | none => simpa [hle] using List.find?_eq_none.1 hf _ hmem
  | some p =>
    obtain ⟨-, before, after, hsplit, hbefore⟩ := List.find?_eq_some_iff_append.1 hf
    obtain ⟨j, -, rfl⟩ := (mem_descendingBases c p).1 (List.mem_of_find?_eq_some hf)
    rw [hsplit, List.mem_append, List.mem_cons] at hmem
    have hsorted := descendingBases_descending c
    rw [hsplit, List.pairwise_append, List.pairwise_cons] at hsorted
    obtain ⟨-, ⟨hafter, -⟩, -⟩ := hsorted
    rcases hmem with h | h | h
    · simpa [hle] using hbefore _ h
    · exact (congrArg (BitVec.toNat ∘ Prod.fst) h).le
    · exact hafter _ h

/-- Settles O18: base 0x00 of row 0 is always among those RowOf searches. -/
theorem rowOfIsTheRowWithTheGreatestBaseBelow : Obligations.RowOfIsTheRowWithTheGreatestBaseBelow := by
  intro c a hvalid hzero
  obtain ⟨⟨hrow, -⟩, -⟩ := geometry_of_configValid hvalid
  have hbase : rowBase c.rowBases 0 ≤ a := by rw [rowBase, hzero]; exact Nat.zero_le _
  obtain ⟨hlt, hle⟩ := rowOf_spec c a ⟨0, by omega, hbase⟩
  exact ⟨by omega, hle, fun r hr => rowBase_le_rowOf c a (by omega)⟩

/-- The bases of R27 lie at least 20 apart, those of the first two rows at least 40. -/
theorem standardRowBases_gaps :
    (∀ r < 4, ∀ r' < 4, r ≠ r' → rowBase standardRowBases r ≤ rowBase standardRowBases r' →
      (rowBase standardRowBases r).toNat + 20 ≤ (rowBase standardRowBases r').toNat) ∧
    ∀ r < 2, ∀ r' < 2, r ≠ r' → rowBase standardRowBases r ≤ rowBase standardRowBases r' →
      (rowBase standardRowBases r).toNat + 40 ≤ (rowBase standardRowBases r').toNat := by decide

section
variable {c : Config} (hbases : c.rowBases = standardRowBases)
include hbases

/-- With three rows and 21 columns, position 20 of row 0 is position 0 of row 2. -/
theorem addrOf_overlap : addrOf c.rowBases 0 20 = addrOf c.rowBases 2 0 := by
  rw [hbases]
  decide

/-- Without overlap the row of an address is the row it was made of: no other base is in between. -/
theorem rowOf_addrOf (hvalid : configValid c = true) (hfit : c.rows ≤ 2 ∨ c.cols ≤ 20) {r k : Nat}
    (hr : (r : Int) < c.rows) (hk : (k : Int) < c.cols) :
    rowOf c (addrOf c.rowBases r k) = r := by
  obtain ⟨⟨-, hrows⟩, -, hcols⟩ := geometry_of_configValid hvalid
  obtain ⟨haddr, -⟩ := addressIsRowBasePlusColumn.1 c r k hvalid hbases hr hk
  obtain ⟨hrow, hle, hgreatest⟩ :=
    rowOfIsTheRowWithTheGreatestBaseBelow c (addrOf c.rowBases r k) hvalid (by rw [hbases]; rfl)
  have hge := hgreatest r hr (by rw [BitVec.le_def]; omega)
  generalize rowOf c (addrOf c.rowBases r k) = r' at hrow hle hge ⊢
  by_contra hne
  rw [BitVec.le_def, haddr] at hle
  rw [hbases] at hle hge
  obtain ⟨hfour, htwo⟩ := standardRowBases_gaps
  have hgap := hfour r (by omega) r' (by omega) (Ne.symm hne) hge
  rcases hfit with h | h
  · have hgap := htwo r (by omega) r' (by omega) (Ne.symm hne) hge
    omega
  · omega

end

/-- Settles O19: position 20 of row 0 and position 0 of row 2 share an address, unless one of them does not exist; then
`rowOf_addrOf` inverts AddrOf. -/
theorem rowOfUndoesAddrOfExactlyWithoutOverlap : Obligations.RowOfUndoesAddrOfExactlyWithoutOverlap := by
  intro c hvalid hbases
  have hsame := addrOf_overlap hbases
  refine ⟨⟨fun h => ?_, fun hfit r k hr hk => rowOf_addrOf hbases hvalid hfit hr hk⟩, fun h => ?_, ?_⟩
  · by_contra hwide
    have hzero := h 0 20 (by omega) (by omega)
    rw [hsame, h 2 0 (by omega) (by omega)] at hzero
    omega
  · by_contra hwide
    have := h 0 20 2 0 (by omega) (by omega) (by omega) (by omega) hsame
    omega
  · intro hfit r k r' k' hr hk hr' hk' heq
    have hrow : r = r' := by
      rw [← rowOf_addrOf hbases hvalid hfit hr hk, heq, rowOf_addrOf hbases hvalid hfit hr' hk']
    obtain ⟨haddr, -⟩ := addressIsRowBasePlusColumn.1 c r k hvalid hbases hr hk
    obtain ⟨haddr', -⟩ := addressIsRowBasePlusColumn.1 c r' k' hvalid hbases hr' hk'
    subst hrow
    rw [heq, haddr'] at haddr
    omega

/-! ### Placing the cursor -/

/-- The command that places the cursor, and what is answered: the home command and 0 at (0, 0), else SetDDRAMAddress
and the address (R142, R170). -/
def cursorAddress (c : Config) (r k : Nat) : Byte := if r = 0 ∧ k = 0 then 0 else (addrOf c.rowBases r k).setWidth 8

def cursorCommand (c : Config) (r k : Nat) : Byte :=
  if r = 0 ∧ k = 0 then c.family.home else c.family.setDdram ||| (addrOf c.rowBases r k).setWidth 8

/-- Placing the cursor is one command send. -/
theorem placeCursor_eq (r k : Nat) (s : State) :
    placeCursor r k s = returning (sendByte (cursorCommand s.cfg r k) .command) (cursorAddress s.cfg r k) s := by
  unfold placeCursor cursorCommand cursorAddress
  split <;> rfl

/-- The clamped coordinates of a request are those of R140. -/
theorem resolve_eq {c : Config} {row col : Int} {r k : Nat} (hvalid : configValid c = true)
    (hr : (r : Int) = max 0 (min row (c.rows - 1))) (hk : (k : Int) = max 0 (min col (c.cols - 1))) :
    resolve c row col = (r, k) := by
  obtain ⟨h₁, h₂⟩ := resolveSaturatesAtBothEnds c row col hvalid
  ext <;> simp only <;> omega

/-- SET_CURSOR's procedure at a clamped position. -/
theorem requestBody_setCursor {row col : Byte} {r k : Nat} {s : State} (hvalid : configValid s.cfg = true)
    (hr : (r : Int) = max 0 (min row.toInt (s.cfg.rows - 1)))
    (hk : (k : Int) = max 0 (min col.toInt (s.cfg.cols - 1))) :
    requestBody (.setCursor row col) s =
      returning (sendByte (cursorCommand s.cfg r k) .command) (cursorAddress s.cfg r k) s := by
  have hpos := resolve_eq hvalid hr hk
  show placeCursor (resolve s.cfg row.toInt col.toInt).1 (resolve s.cfg row.toInt col.toInt).2 s = _
  rw [hpos, placeCursor_eq]

theorem exec_setCursor {row col : Byte} {r k : Nat} {s : State} (ha : s.admitted .ready) (hok : s.accessesOk 6)
    (hr : (r : Int) = max 0 (min row.toInt (s.cfg.rows - 1)))
    (hk : (k : Int) = max 0 (min col.toInt (s.cfg.cols - 1))) :
    exec (.setCursor row col) s = .next (s.completed (commandTrace s.cfg s.bl (cursorCommand s.cfg r k))
      (lowByte s.cfg s.bl (cursorCommand s.cfg r k) 0x00) 6 (cursorAddress s.cfg r k)) :=
  exec_sendsCommand (i := .setCursor row col) rfl rfl ha hok (requestBody_setCursor ha.1 hr hk)

/-- Settles O17: the address is `addrOf`'s. -/
theorem setCursorResult : Obligations.SetCursorResult := fun _ _ s r k ha hok hr hk =>
  ⟨addrOf s.cfg.rowBases r k, addrOf_toNat _ r k, exec_setCursor ha hok hr hk⟩

/-! ### The status readback -/

/-- The state a status read ends in when its accesses succeed (R143). -/
def State.statusRead (s : State) : State :=
  (s.advanced (statusTrace s.cfg s.bl s.statusReads.1 s.statusReads.2) (backlightBits s.cfg s.bl) 8).withDraws
    s.drawsAfterStatus

theorem readStatus_done {s : State} (hok : s.accessesOk 8) : readStatus s = .done s.statusByte s.statusRead :=
  readStatus_ok hok

theorem exec_getLine {s : State} (ha : s.admitted .ready) (hok : s.accessesOk 8) :
    exec .getLine s = .next (respond .ok (BitVec.ofNat 8 (rowOf s.cfg (statusAddr s.statusByte))) s.statusRead) := by
  refine exec_done (i := .getLine) rfl rfl ha ?_
  show (readStatus s).andThen _ = _
  rw [readStatus_done hok, andThen_done]
  rfl

theorem exec_isBusy {s : State} (ha : s.admitted .ready) (hok : s.accessesOk 8) :
    exec .isBusy s = .next (respond .ok (boolValue (statusBusy s.statusByte)) s.statusRead) := by
  refine exec_done (i := .isBusy) rfl rfl ha ?_
  show (readStatus s).andThen _ = _
  rw [readStatus_done hok, andThen_done]

/-- Settles O20: the three operations are one status read and what is answered of its byte. -/
theorem statusReadResults : Obligations.StatusReadResults := fun _ ha hok =>
  ⟨exec_done (i := .getAddr) rfl rfl ha (readStatus_done hok), exec_isBusy ha hok, exec_getLine ha hok⟩

/-- In simulation the status byte is the mock value: its halves come back as they were split (R68). -/
theorem statusByte_sim {s : State} (hsim : s.cfg.sim = true) : s.statusByte = s.cfg.mockReadback := by
  have hjoin : ∀ v : Byte, (v &&& 0xF0 &&& 0xF0) ||| (((v <<< 4) &&& 0xF0) >>> 4) = v := by decide
  rw [State.statusByte, State.statusReads, if_pos hsim]
  exact hjoin _

/-- Settles O24: in simulation every access succeeds, and the status byte is the mock value. -/
theorem simulationAnswersTheMock : Obligations.SimulationAnswersTheMock := by
  intro s ha hsim
  obtain ⟨haddr, hbusy, hline⟩ := statusReadResults s ha (.inl hsim)
  have hanswers : s.answersAfter 8 = s.answers := by rw [State.answersAfter, if_pos hsim]
  rw [← statusByte_sim hsim]
  exact ⟨_, _, _, haddr, rfl, hbusy, rfl, hline, rfl, hanswers, hanswers, hanswers⟩

/-! ### NEXT_LINE -/

/-- What an operation on the state after a status read gives, its accesses counted from before it. -/
theorem accessesOk_statusRead {n : Nat} {s : State} (hok : s.accessesOk (8 + n)) : s.statusRead.accessesOk n :=
  accessesOk_withDraws.2 (accessesOk_advanced _ _ hok)

/-- NEXT_LINE is a status read and the placing of the cursor, as SET_CURSOR places it. -/
theorem exec_nextLine {s : State} (ha : s.admitted .ready) (hok : s.accessesOk 14) :
    let n := nextRow s.cfg (rowOf s.cfg (statusAddr s.statusByte))
    exec .nextLine s = .next (s.statusRead.completed (commandTrace s.cfg s.bl (cursorCommand s.cfg n 0))
      (lowByte s.cfg s.bl (cursorCommand s.cfg n 0) 0x00) 6 (cursorAddress s.cfg n 0)) := by
  intro n
  have hbody : requestBody .nextLine s = placeCursor n 0 s.statusRead := by
    show (readStatus s).andThen _ = _
    rw [readStatus_done (accessesOk_mono (by omega) hok), andThen_done]
    rfl
  rw [placeCursor_eq, returning_done _ (sendCommand_ok _ (accessesOk_statusRead hok))] at hbody
  exact exec_done (i := .nextLine) rfl rfl ha hbody

theorem statusRead_completed (tr : List Event) (l : Byte) (n : Nat) (v : Byte) (s : State) :
    s.statusRead.completed tr l n v =
      { s.completed (statusTrace s.cfg s.bl s.statusReads.1 s.statusReads.2 ++ tr) l (8 + n) v with
        draws := s.drawsAfterStatus } := by
  rw [State.completed, State.statusRead, withDraws_advanced, advanced_advanced]
  rfl

/-- Settles O21: column 0 adds nothing to the base, so `cursorCommand` and `cursorAddress` are the rule's. -/
theorem nextLineResult : Obligations.NextLineResult := by
  intro s n ha hok hn read base cmd
  have hexec := exec_nextLine ha hok
  obtain rfl : n = nextRow s.cfg (rowOf s.cfg (statusAddr s.statusByte)) := hn
  have hcmd : cursorCommand s.cfg (nextRow s.cfg (rowOf s.cfg (statusAddr s.statusByte))) 0 = cmd := by
    simp [cmd, base, cursorCommand, addrOf_zero]
  have haddr : cursorAddress s.cfg (nextRow s.cfg (rowOf s.cfg (statusAddr s.statusByte))) 0 =
      if nextRow s.cfg (rowOf s.cfg (statusAddr s.statusByte)) = 0 then 0 else base := by
    simp [base, cursorAddress, addrOf_zero]
  rw [hexec, statusRead_completed, hcmd, haddr]

/-- Settles O22: GET_LINE answers the row in a byte that SET_CURSOR reads back, and each leaves what the part of
NEXT_LINE leaves, but for the responses. -/
theorem nextLineIsGetLineThenSetCursor : Obligations.NextLineIsGetLineThenSetCursor := by
  intro s t u row v ha hok hline hrow hset hv
  obtain ⟨⟨hpos, hrows⟩, hcols, -⟩ := geometry_of_configValid ha.1
  obtain rfl := Host.Outcome.next.inj ((exec_getLine ha (accessesOk_mono (by omega) hok)).symm.trans hline)
  have hnext := exec_nextLine ha hok
  have hlt := rowOf_lt s.cfg (statusAddr s.statusByte) (by omega)
  have hrow : BitVec.ofNat 8 (rowOf s.cfg (statusAddr s.statusByte)) = row :=
    congrArg Response.value (List.singleton_inj.1 (List.append_cancel_left hrow))
  generalize rowOf s.cfg (statusAddr s.statusByte) = r at hlt hrow hset hnext hv
  have hsmall : ∀ n < 4, (BitVec.ofNat 8 n).toInt = n ∧ (BitVec.ofNat 8 n).toNat = n := by decide
  have hn : nextRow s.cfg r < s.cfg.rows.toNat := Nat.mod_lt _ (by omega)
  have hok₂ : s.statusRead.accessesOk 6 := accessesOk_statusRead hok
  rw [← hrow, (hsmall r (by omega)).2] at hset
  have hexec := exec_setCursor (row := BitVec.ofNat 8 (nextRow s.cfg r)) (col := 0) (r := nextRow s.cfg r) (k := 0)
    (s := respond .ok (BitVec.ofNat 8 r) s.statusRead) ha hok₂
    (by rw [(hsmall _ (by omega)).1]; show _ = max 0 (min _ (s.cfg.rows - 1)); omega)
    (by show _ = max 0 (min 0 (s.cfg.cols - 1)); omega)
  obtain rfl := Host.Outcome.next.inj (hexec.symm.trans hset)
  rw [completed_responses] at hv
  obtain rfl : _ = v := congrArg Response.value (List.singleton_inj.1 (List.append_cancel_left hv))
  exact hnext

end Sys2Proof.Machine
end

section
/-! SUPPORT. What a procedure has done when it ends, however it ends (R194): it has a trace and a course of registers,
and is either through with both or cut at its k-th access. Said once of the checked accesses and closed under
sequencing. -/

namespace Sys2Proof.Machine

/-- The registers an operation assigns itself; `latch` and `fault` follow its accesses (R20, R34). -/
structure Registers where
  phase : Phase
  em : Byte
  dc : Byte
  bl : Bool

def State.registers (s : State) : Registers := ⟨s.phase, s.em, s.dc, s.bl⟩

def Event.isRead : Event → Bool
  | .read _ | .readFail => true
  | .write _ | .writeFail _ | .delay _ => false

/-- No access of the trace has failed. -/
abbrev Clean (tr : List Event) : Prop := ∀ e ∈ tr, e.isFailure = false

/-- From `s` to `t` exactly the events of `tr` have happened, and the registers were left at `r`. -/
structure Did (r : Registers) (tr : List Event) (s t : State) : Prop where
  outside : Outside s t
  registers : t.registers = r
  trace : t.trace = s.trace ++ tr
  latch : t.latch = latchAfter tr s.latch
  fault : t.fault = (s.fault || tr.any Event.isFailure)
  answers : t.answers = s.answersAfter (accesses tr)
  draws : tr.any Event.isRead = false → t.draws = s.draws

theorem Did.nil (s : State) : Did s.registers [] s s :=
  ⟨⟨rfl, rfl, rfl, rfl⟩, rfl, by simp, rfl, by simp, (answersAfter_zero s).symm, fun _ => rfl⟩

theorem Did.trans {r₁ r₂ : Registers} {t₁ t₂ : List Event} {s t u : State} (h₁ : Did r₁ t₁ s t)
    (h₂ : Did r₂ t₂ t u) : Did r₂ (t₁ ++ t₂) s u where
  outside := h₁.outside.trans h₂.outside
  registers := h₂.registers
  trace := by rw [h₂.trace, h₁.trace, List.append_assoc]
  latch := by rw [h₂.latch, h₁.latch, latchAfter_append]
  fault := by rw [h₂.fault, h₁.fault, List.any_append, Bool.or_assoc]
  answers := by
    rw [h₂.answers, accesses_append, State.answersAfter, State.answersAfter, h₁.outside.1, h₁.answers,
      State.answersAfter]
    split
    · rfl
    · rw [List.drop_drop]
  draws := by
    rw [List.any_append, Bool.or_eq_false_iff]
    exact fun ⟨hr₁, hr₂⟩ => (h₂.draws hr₂).trans (h₁.draws hr₁)

/-- The registers that stood before do not count. -/
theorem Did.of_registers {r : Registers} {tr : List Event} {s t : State} (p : Phase) (em dc : Byte) (bl : Bool)
    (h : Did r tr { s with phase := p, em := em, dc := dc, bl := bl } t) : Did r tr s t :=
  ⟨h.outside, h.registers, h.trace, h.latch, h.fault, h.answers, h.draws⟩

/-- The accesses that follow are the later ones of those that follow from `s`. -/
theorem Did.accessesOk_iff {r : Registers} {tr : List Event} {s t : State} (h : Did r tr s t)
    (hok : s.accessesOk (accesses tr)) (n : Nat) : t.accessesOk n ↔ s.accessesOk (accesses tr + n) := by
  unfold State.accessesOk
  rw [h.outside.1, h.answers, State.answersAfter]
  cases hsim : s.cfg.sim with
  | true => simp
  | false =>
    have hbefore : Answer.fail ∉ s.answers.take (accesses tr) := hok.resolve_left (by simp [hsim])
    simp [List.take_add, hbefore]

/-- A procedure started in `s` that returns `a`, has the trace `tr`, and the registers `r k` once `k` accesses have
succeeded: it ran to its end, or it was cut at the first access that failed. -/
def Plays {α : Type} (r : Nat → Registers) (tr : List Event) (a : α) (s : State) (run : Run α) : Prop :=
  Ends run (fun b t => b = a ∧ s.accessesOk (accesses tr) ∧ Did (r (accesses tr)) tr s t)
    fun t => ∃ k < accesses tr, s.accessesOk k ∧ ¬ s.accessesOk (k + 1) ∧ Did (r k) (cutAt k tr) s t

/-- `n` accesses in one course of registers, then another. -/
def stitch (n : Nat) (r₁ r₂ : Nat → Registers) (k : Nat) : Registers := if k < n then r₁ k else r₂ (k - n)

/-- `a` for the first `n` accesses, then `b`. -/
def switchAt (n : Nat) (a b : Registers) (k : Nat) : Registers := if k < n then a else b

theorem stitch_zero (r₁ r₂ : Nat → Registers) : stitch 0 r₁ r₂ = r₂ := rfl

theorem stitch_const (n : Nat) (a b : Registers) : stitch n (fun _ => a) (fun _ => b) = switchAt n a b := rfl

/-- A constant course is one course with the constant course before it. -/
theorem stitch_const_stitch (m n : Nat) (a : Registers) (r : Nat → Registers) :
    stitch m (fun _ => a) (stitch n (fun _ => a) r) = stitch (m + n) (fun _ => a) r := by
  funext k
  unfold stitch
  by_cases hm : k < m
  · rw [if_pos hm, if_pos (by omega)]
  · rw [if_neg hm, Nat.sub_sub]
    exact ite_congr (propext (by omega)) (fun _ => rfl) fun _ => rfl

theorem stitch_const_switchAt (m n : Nat) (a b : Registers) :
    stitch m (fun _ => a) (switchAt n a b) = switchAt (m + n) a b := stitch_const_stitch m n a fun _ => b

theorem plays_andThen {α β : Type} {r₁ r₂ : Nat → Registers} {t₁ t₂ : List Event} {a : α} {b : β} {s : State}
    {run : Run α} {k : α → State → Run β} (hclean : Clean t₁) (h : Plays r₁ t₁ a s run)
    (hk : ∀ t, run = .done a t → Did (r₁ (accesses t₁)) t₁ s t → Plays r₂ t₂ b t (k a t)) :
    Plays (stitch (accesses t₁) r₁ r₂) (t₁ ++ t₂) b s (run.andThen k) := by
  unfold Plays at h hk ⊢
  rw [accesses_append]
  cases hrun : run with
  | failed t =>
    rw [hrun] at h
    obtain ⟨j, hj, hok, hbad, hdid⟩ := h
    exact ⟨j, by omega, hok, hbad, by rwa [stitch, if_pos hj, cutAt_append_left hj]⟩
  | done a' t =>
    rw [hrun] at h
    obtain ⟨rfl, hok, hdid⟩ := h
    refine ends_mono (hk t hrun hdid) ?_ ?_
    · rintro b' u ⟨rfl, hok', hdid'⟩
      refine ⟨rfl, (hdid.accessesOk_iff hok _).1 hok', ?_⟩
      rw [stitch, if_neg (by omega), Nat.add_sub_cancel_left]
      exact hdid.trans hdid'
    · rintro u ⟨j, hj, hok', hbad, hdid'⟩
      refine ⟨accesses t₁ + j, by omega, (hdid.accessesOk_iff hok _).1 hok',
        fun hgood => hbad ((hdid.accessesOk_iff hok _).2 hgood), ?_⟩
      rw [stitch, if_neg (by omega), cutAt_append_right hclean (by omega), Nat.add_sub_cancel_left]
      exact hdid.trans hdid'

theorem plays_congr {α : Type} {r r' : Nat → Registers} {tr : List Event} {a : α} {s : State} {run : Run α}
    (h : Plays r tr a s run) (hr : ∀ k ≤ accesses tr, r k = r' k) : Plays r' tr a s run :=
  ends_mono h (fun _ _ ⟨ha, hok, hdid⟩ => ⟨ha, hok, hr _ le_rfl ▸ hdid⟩)
    fun _ ⟨k, hk, hok, hbad, hdid⟩ => ⟨k, hk, hok, hbad, hr k hk.le ▸ hdid⟩

theorem plays_of_registers {α : Type} {r : Nat → Registers} {tr : List Event} {a : α} {s : State} {run : Run α}
    (p : Phase) (em dc : Byte) (bl : Bool)
    (h : Plays r tr a { s with phase := p, em := em, dc := dc, bl := bl } run) : Plays r tr a s run :=
  ends_mono h (fun _ _ ⟨ha, hok, hdid⟩ => ⟨ha, hok, hdid.of_registers⟩)
    fun _ ⟨k, hk, hok, hbad, hdid⟩ => ⟨k, hk, hok, hbad, hdid.of_registers⟩

/-! ### The accesses and what takes none -/

theorem plays_done {α : Type} (a : α) (s : State) : Plays (fun _ => s.registers) [] a s (.done a s) :=
  ⟨rfl, .inr (by simp [accesses]), Did.nil s⟩

theorem plays_delay (n : Nat) (s : State) : Plays (fun _ => s.registers) [.delay n] () s (delay n s) :=
  ⟨rfl, .inr (by simp [accesses]), ⟨rfl, rfl, rfl, rfl⟩, rfl, rfl, rfl, by simp [Event.isFailure],
    (answersAfter_zero s).symm, fun _ => rfl⟩

theorem plays_setPhase (p : Phase) (s : State) :
    Plays (fun _ => { s.registers with phase := p }) [] () s (setPhase p s) :=
  ⟨rfl, .inr (by simp [accesses]), ⟨rfl, rfl, rfl, rfl⟩, rfl, (List.append_nil _).symm, rfl, by simp,
    (answersAfter_zero s).symm, fun _ => rfl⟩

/-- When the next access fails the oracle's next answer says so. -/
theorem answers_of_not_accessesOk_one {s : State} (h : ¬ s.accessesOk 1) :
    s.cfg.sim = false ∧ ∃ rest, s.answers = .fail :: rest := by
  simp only [State.accessesOk, not_or, Bool.not_eq_true, not_not] at h
  obtain ⟨hsim, hfail⟩ := h
  cases ha : s.answers with
  | nil => simp [ha] at hfail
  | cons a rest => exact ⟨hsim, rest, by simp_all⟩

theorem plays_tw (b : Byte) (s : State) : Plays (fun _ => s.registers) [.write b] () s (tw b s) := by
  by_cases hok : s.accessesOk 1
  · rw [tw_ok b hok]
    exact ⟨rfl, hok, ⟨rfl, rfl, rfl, rfl⟩, rfl, rfl, rfl, by simp [Event.isFailure], rfl, fun _ => rfl⟩
  · obtain ⟨hsim, rest, hfail⟩ := answers_of_not_accessesOk_one hok
    rw [tw_fail b hsim hfail]
    refine ⟨0, Nat.one_pos, .inr (by simp), hok, ⟨rfl, rfl, rfl, rfl⟩, rfl, rfl, rfl, by simp [cutAt, Event.isFailure],
      ?_, fun _ => rfl⟩
    simp [State.answersAfter, hsim, hfail, cutAt, accesses]

theorem plays_tr (half : StatusHalf) {s : State} {r : Registers} (hr : s.registers = r) :
    Plays (fun _ => r) [.read (s.readValue half)] (s.readValue half) s (tr half s) := by
  subst hr
  by_cases hok : s.accessesOk 1
  · rw [tr_done half hok]
    exact ⟨rfl, hok, ⟨rfl, rfl, rfl, rfl⟩, rfl, rfl, rfl, by simp [Event.isFailure, State.withDraws], rfl,
      fun h => by simp [Event.isRead] at h⟩
  · obtain ⟨hsim, rest, hfail⟩ := answers_of_not_accessesOk_one hok
    have hcut : tr half s = .failed (transportFailure .readFail { s with answers := rest, draws := s.draws + 1 }) := by
      simp [tr, answerRead, hsim, hfail]
    rw [hcut]
    refine ⟨0, Nat.one_pos, .inr (by simp), hok, ⟨rfl, rfl, rfl, rfl⟩, rfl, rfl, rfl, by simp [cutAt, Event.isFailure],
      ?_, fun h => by simp [cutAt, Event.isRead] at h⟩
    simp [State.answersAfter, hsim, hfail, cutAt, accesses]

/-! ### The sequencer's procedures -/

/-- From configuration `c` and registers `r` the procedure has the trace `tr`, returns `a` and takes the registers
through `R`. -/
structure Course {α : Type} (c : Config) (r : Registers) (R : Nat → Registers) (tr : List Event) (a : α)
    (p : State → Run α) : Prop where
  clean : Clean tr
  plays : ∀ s : State, s.cfg = c → s.registers = r → Plays R tr a s (p s)

/-- A procedure that only makes accesses and waits: the registers stay. -/
abbrev Sends {α : Type} (c : Config) (r : Registers) (tr : List Event) (a : α) (p : State → Run α) : Prop :=
  Course c r (fun _ => r) tr a p

theorem Course.congr {α : Type} {c : Config} {r : Registers} {R R' : Nat → Registers} {tr : List Event} {a : α}
    {p : State → Run α} (h : Course c r R tr a p) (hR : ∀ k ≤ accesses tr, R k = R' k) : Course c r R' tr a p :=
  ⟨h.clean, fun s hc hr => plays_congr (h.plays s hc hr) hR⟩

theorem course_andThen {α β : Type} {c : Config} {r : Registers} {R₁ R₂ : Nat → Registers} {t₁ t₂ : List Event} {a : α}
    {b : β} {p : State → Run α} {k : α → State → Run β} (hp : Course c r R₁ t₁ a p)
    (hk : Course c (R₁ (accesses t₁)) R₂ t₂ b (k a)) :
    Course c r (stitch (accesses t₁) R₁ R₂) (t₁ ++ t₂) b fun s => (p s).andThen k where
  clean := List.forall_mem_append.2 ⟨hp.clean, hk.clean⟩
  plays s hc hr := plays_andThen hp.clean (hp.plays s hc hr) fun t _ hdid =>
    hk.plays t (hdid.outside.1.trans hc) hdid.registers

/-- A procedure that reads the configuration and the registers first. -/
theorem Course.reading {α β : Type} {c : Config} {r : Registers} {R : Nat → Registers} {tr : List Event} {a : α}
    {f : Config → Registers → β} {p : β → State → Run α} (h : Course c r R tr a (p (f c r))) :
    Course c r R tr a fun s => p (f s.cfg s.registers) s where
  clean := h.clean
  plays s hc hr := by
    subst hc hr
    exact h.plays s rfl rfl

theorem course_block_cons {c : Config} {r : Registers} {R₁ R₂ : Nat → Registers} {t₁ t₂ : List Event}
    {p : State → Run Unit} {ps : List (State → Run Unit)} (hp : Course c r R₁ t₁ () p)
    (hps : Course c (R₁ (accesses t₁)) R₂ t₂ () (block ps)) :
    Course c r (stitch (accesses t₁) R₁ R₂) (t₁ ++ t₂) () (block (p :: ps)) := course_andThen hp hps

/-- What is returned at the end takes no access, so it does not add to the course. -/
theorem course_andThen_done {α β : Type} {c : Config} {r : Registers} {R : Nat → Registers} {tr : List Event} {a : α}
    {p : State → Run α} (v : β) (h : Course c r R tr a p) :
    Course c r R tr v fun s => (p s).andThen fun _ s => .done v s where
  clean := h.clean
  plays s hc hr := by
    have hp := h.plays s hc hr
    unfold Plays at hp ⊢
    cases hrun : p s with
    | failed t => rwa [hrun] at hp
    | done _ t =>
      rw [hrun] at hp
      exact ⟨rfl, hp.2⟩

theorem course_returning {c : Config} {r : Registers} {R : Nat → Registers} {tr : List Event} {p : State → Run Unit}
    (v : Byte) (h : Course c r R tr () p) : Course c r R tr v (returning p v) := course_andThen_done v h

theorem course_block_singleton {c : Config} {r : Registers} {R : Nat → Registers} {tr : List Event}
    {p : State → Run Unit} (h : Course c r R tr () p) : Course c r R tr () (block [p]) := course_andThen_done () h

theorem clean_read (v : Byte) : Clean [.read v] := List.forall_mem_singleton.2 rfl

/-- One constant course of registers after another. -/
theorem plays_andThen_const {α β : Type} {r : Registers} {t₁ t₂ : List Event} {a : α} {b : β} {s : State}
    {run : Run α} {k : α → State → Run β} (hclean : Clean t₁) (h : Plays (fun _ => r) t₁ a s run)
    (hk : ∀ t, run = .done a t → t.cfg = s.cfg → t.registers = r → Plays (fun _ => r) t₂ b t (k a t)) :
    Plays (fun _ => r) (t₁ ++ t₂) b s (run.andThen k) := by
  refine plays_congr (plays_andThen hclean h fun t ht hdid => hk t ht hdid.outside.1 hdid.registers) fun k _ => ?_
  rw [stitch]
  split <;> rfl

section
variable {c : Config} {r : Registers}

theorem sends_done {α : Type} (a : α) : Sends c r [] a (fun s => .done a s) where
  clean := List.forall_mem_nil _
  plays s _ hr := hr ▸ plays_done a s

theorem sends_tw (b : Byte) : Sends c r [.write b] () (tw b) where
  clean := List.forall_mem_singleton.2 rfl
  plays s _ hr := hr ▸ plays_tw b s

theorem sends_delay (n : Nat) : Sends c r [.delay n] () (delay n) where
  clean := List.forall_mem_singleton.2 rfl
  plays s _ hr := hr ▸ plays_delay n s

theorem sends_block_cons {t₁ t₂ : List Event} {p : State → Run Unit} {ps : List (State → Run Unit)}
    (hp : Sends c r t₁ () p) (hps : Sends c r t₂ () (block ps)) : Sends c r (t₁ ++ t₂) () (block (p :: ps)) :=
  (course_block_cons hp hps).congr fun _ _ => ite_self r

theorem sends_block_nil : Sends c r [] () (block []) := sends_done ()

theorem sends_delayEH : Sends c r [.delay c.tEH] () delayEH :=
  (sends_delay c.tEH).reading (f := fun c _ => c.tEH) (p := delay)

theorem sends_delayEL : Sends c r [.delay c.tEL] () delayEL :=
  (sends_delay c.tEL).reading (f := fun c _ => c.tEL) (p := delay)

theorem sends_strobe (b : Byte) :
    Sends c r [.write (b ||| c.pins.en), .delay c.tEH, .write b, .delay c.tEL] () (strobe b) := by
  refine Course.reading (f := fun c _ => b ||| c.pins.en) (p := fun p => block [tw p, delayEH, tw b, delayEL]) ?_
  exact sends_block_cons (sends_tw _) (sends_block_cons sends_delayEH
    (sends_block_cons (sends_tw _) (sends_block_cons sends_delayEL sends_block_nil)))

theorem sends_sendNibble (n : Nibble) (rs : RegisterSelect) :
    Sends c r (nibbleTrace c (writeByte c.pins n r.bl rs)) () (sendNibble n rs) := by
  refine Course.reading (f := fun c r => writeByte c.pins n r.bl rs) (p := fun b => block [tw b, strobe b]) ?_
  exact sends_block_cons (sends_tw _) (sends_block_cons (sends_strobe _) sends_block_nil)

theorem sends_sendByte (v : Byte) (rs : RegisterSelect) :
    Sends c r (byteTrace c r.bl v (rsBit c.pins rs) (settleTime c rs)) () (sendByte v rs) := by
  have hsettle : Sends c r [.delay (settleTime c rs)] () (settle rs) :=
    (sends_delay _).reading (f := fun c _ => settleTime c rs) (p := delay)
  have h := sends_block_cons (sends_sendNibble (c := c) (r := r) (hiNibble v) rs)
    (sends_block_cons (sends_sendNibble (loNibble v) rs) (sends_block_cons hsettle sends_block_nil))
  rwa [writeByte_hi, writeByte_lo, List.append_nil, ← List.append_assoc] at h

theorem sends_command (v : Byte) : Sends c r (commandTrace c r.bl v) () (sendByte v .command) :=
  sends_sendByte v .command

theorem sends_data (v : Byte) : Sends c r (dataTrace c r.bl v) () (sendByte v .data) := sends_sendByte v .data

/-- A procedure that goes on to something not known beforehand, as the byte of a read. -/
theorem plays_andThen_exists {α β ι : Type} [Inhabited ι] {t₁ : List Event} {t₂ : ι → List Event} {a : α} {b : ι → β}
    {s : State} {run : Run α} {k : α → State → Run β} (hclean : Clean t₁) (h : Plays (fun _ => r) t₁ a s run)
    (hk : ∀ t, t.cfg = s.cfg → t.registers = r → ∃ i, Plays (fun _ => r) (t₂ i) (b i) t (k a t)) :
    ∃ i, Plays (fun _ => r) (t₁ ++ t₂ i) (b i) s (run.andThen k) := by
  cases run with
  | failed t => exact ⟨default, plays_andThen_const hclean h fun _ ht => by cases ht⟩
  | done a' t =>
    obtain ⟨rfl, -, hdid⟩ := id h
    obtain ⟨i, hi⟩ := hk t hdid.outside.1 hdid.registers
    exact ⟨i, plays_andThen_const hclean h fun _ ht _ _ => by cases ht; exact hi⟩

end

/-- The readback from its second read on (R143). -/
def readStatusSecond (b v : Byte) (s : State) : Run Byte :=
  (tr .second s).andThen fun w s =>
    returning (block [tw b, delayEL, tw (backlightByte s.cfg.pins s.bl)]) (assembleStatus v w) s

/-- The readback from its first read on (R143). -/
def readStatusFirst (b p : Byte) (s : State) : Run Byte :=
  (tr .first s).andThen fun v s => (block [tw b, delayEL, tw p, delayEH] s).andThen fun _ => readStatusSecond b v

theorem readStatus_eq (s : State) :
    readStatus s = (block [tw (readModeByte s.cfg.pins s.bl), tw (readModeByte s.cfg.pins s.bl ||| s.cfg.pins.en),
      delayEH] s).andThen fun _ =>
        readStatusFirst (readModeByte s.cfg.pins s.bl) (readModeByte s.cfg.pins s.bl ||| s.cfg.pins.en) := rfl

section
variable {c : Config} {r : Registers} (b : Byte)

theorem plays_readStatusSecond (v : Byte) {s : State} (hc : s.cfg = c) (hr : s.registers = r) :
    ∃ w, Plays (fun _ => r) [.read w, .write b, .delay c.tEL, .write (backlightBits c r.bl)] (assembleStatus v w) s
      (readStatusSecond b v s) := by
  have hleave (x : Byte) : Sends c r [.write b, .delay c.tEL, .write x] () (block [tw b, delayEL, tw x]) :=
    sends_block_cons (sends_tw b) (sends_block_cons sends_delayEL (sends_block_cons (sends_tw x) sends_block_nil))
  have hlast := Course.reading (f := fun c r => backlightByte c.pins r.bl)
    (p := fun x => returning (block [tw b, delayEL, tw x]) (assembleStatus v (s.readValue .second)))
    (course_returning _ (hleave (backlightByte c.pins r.bl)))
  refine ⟨s.readValue .second, ?_⟩
  unfold readStatusSecond
  exact plays_andThen_const (clean_read _) (plays_tr .second hr) fun t _ ht hr' => hlast.plays t (ht.trans hc) hr'

theorem plays_readStatusFirst (p : Byte) {s : State} (hc : s.cfg = c) (hr : s.registers = r) :
    ∃ n : Byte × Byte, Plays (fun _ => r) [.read n.1, .write b, .delay c.tEL, .write p, .delay c.tEH, .read n.2,
      .write b, .delay c.tEL, .write (backlightBits c r.bl)] (assembleStatus n.1 n.2) s (readStatusFirst b p s) := by
  have hmiddle : Sends c r [.write b, .delay c.tEL, .write p, .delay c.tEH] () (block [tw b, delayEL, tw p, delayEH]) :=
    sends_block_cons (sends_tw b) (sends_block_cons sends_delayEL
      (sends_block_cons (sends_tw p) (sends_block_cons sends_delayEH sends_block_nil)))
  have hsecond (v : Byte) (t : State) (ht : t.cfg = s.cfg) (hr' : t.registers = r) :
      ∃ w, Plays (fun _ => r) [.write b, .delay c.tEL, .write p, .delay c.tEH, .read w, .write b, .delay c.tEL,
        .write (backlightBits c r.bl)] (assembleStatus v w) t
        ((block [tw b, delayEL, tw p, delayEH] t).andThen fun _ => readStatusSecond b v) :=
    plays_andThen_exists hmiddle.clean (hmiddle.plays t (ht.trans hc) hr') fun _ hu =>
      plays_readStatusSecond b v (hu.trans (ht.trans hc))
  obtain ⟨w, hread⟩ := plays_andThen_exists
    (k := fun v s => (block [tw b, delayEL, tw p, delayEH] s).andThen fun _ => readStatusSecond b v)
    (clean_read _) (plays_tr .first hr) (hsecond (s.readValue .first))
  exact ⟨(s.readValue .first, w), hread⟩

end

/-- The status readback: some two bytes are read, and their upper halves returned (R143). -/
theorem plays_readStatus (s : State) :
    ∃ n : Byte × Byte, Plays (fun _ => s.registers) (statusTrace s.cfg s.bl n.1 n.2) (assembleStatus n.1 n.2) s
      (readStatus s) := by
  have henter : Sends s.cfg s.registers _ () (block [tw (readModeByte s.cfg.pins s.bl),
      tw (readModeByte s.cfg.pins s.bl ||| s.cfg.pins.en), delayEH]) :=
    sends_block_cons (sends_tw _) (sends_block_cons (sends_tw _) (sends_block_cons sends_delayEH sends_block_nil))
  rw [readStatus_eq]
  exact plays_andThen_exists henter.clean (henter.plays s rfl rfl) fun t ht hr => plays_readStatusFirst _ _ ht hr

/-! ### The procedures that assign a register -/

def Registers.shadow (r : Registers) : FlagReg → Byte
  | .entry => r.em
  | .display => r.dc

def Registers.setShadow (r : Registers) (v : Byte) : FlagReg → Registers
  | .entry => { r with em := v }
  | .display => { r with dc := v }

/-- A shadow with masked bits set or cleared (R155). -/
def Registers.update (r : Registers) (reg : FlagReg) (mask : Byte) (set : Bool) : Registers :=
  r.setShadow (maskedUpdate (r.shadow reg) mask set) reg

section
variable {c : Config} {r : Registers}

theorem course_setPhase (p : Phase) : Course c r (fun _ => { r with phase := p }) [] () (setPhase p) where
  clean := List.forall_mem_nil _
  plays s _ hr := hr ▸ plays_setPhase p s

theorem course_setBacklight (v : Bool) :
    Course c r (fun _ => { r with bl := v }) [.write (backlightBits c v)] () (setBacklight v) where
  clean := List.forall_mem_singleton.2 rfl
  plays s hc hr := by
    subst hc hr
    exact plays_of_registers s.phase s.em s.dc v (plays_tw _ _)

theorem course_flagUpdate (reg : FlagReg) (mask : Byte) (set : Bool) :
    Course c r (fun _ => r.update reg mask set) (commandTrace c r.bl (maskedUpdate (r.shadow reg) mask set)) ()
      (flagUpdate reg mask set) where
  clean := (sends_command (c := c) (r := r) _).clean
  plays s hc hr := by
    subst hc hr
    cases reg with
    | entry => exact plays_of_registers s.phase _ s.dc s.bl ((sends_command _).plays _ rfl rfl)
    | display => exact plays_of_registers s.phase s.em _ s.bl ((sends_command _).plays _ rfl rfl)

theorem sends_placeCursor (row col : Nat) :
    Sends c r (commandTrace c r.bl (cursorCommand c row col)) (cursorAddress c row col) (placeCursor row col) where
  clean := (sends_command (c := c) (r := r) _).clean
  plays s hc hr := by
    subst hc
    rw [placeCursor_eq]
    exact (course_returning _ (sends_command _)).plays s rfl hr

/-! ### INIT -/

theorem sends_handshakeStep (n : Nibble) (wait : Nat) :
    Sends c r (handshakeTrace c r.bl n wait) () (handshakeStep n wait) := by
  have h := sends_block_cons (sends_sendNibble (c := c) (r := r) n .command)
    (sends_block_cons (sends_delay wait) sends_block_nil)
  have hbyte : writeByte c.pins n r.bl .command = (n.setWidth 8 <<< 4) ||| backlightBits c r.bl := BitVec.or_zero
  rw [hbyte] at h
  exact h

theorem accesses_handshakeTrace (c : Config) (bl : Bool) (n : Nibble) (wait : Nat) :
    accesses (handshakeTrace c bl n wait) = 3 := rfl

theorem accesses_commandTrace (c : Config) (bl : Bool) (v : Byte) : accesses (commandTrace c bl v) = 6 := rfl

/-- The power-up wait and the four raw nibbles (R132). -/
theorem course_handshake : Course c r
    (switchAt 12 { r with phase := .resetPending } { r with phase := .functionLocked })
    ([.delay c.init.tPower] ++ handshakeTrace c r.bl c.init.nibble1 c.init.tInit1 ++
      handshakeTrace c r.bl c.init.nibble2 c.init.tInit2 ++ handshakeTrace c r.bl c.init.nibble3 c.init.tInit3 ++
      handshakeTrace c r.bl c.init.nibble4 c.init.tInit4) () handshake := by
  have h := course_block_cons (c := c) (r := r) (sends_delay c.init.tPower)
    (course_block_cons (course_setPhase .resetPending)
    (course_block_cons (sends_handshakeStep c.init.nibble1 c.init.tInit1)
    (course_block_cons (sends_handshakeStep c.init.nibble2 c.init.tInit2)
    (course_block_cons (sends_handshakeStep c.init.nibble3 c.init.tInit3)
    (course_block_cons (sends_handshakeStep c.init.nibble4 c.init.tInit4)
    (course_block_singleton (course_setPhase .functionLocked)))))))
  simp only [accesses, accesses_handshakeTrace, stitch_zero, stitch_const, stitch_const_switchAt, List.nil_append,
    List.append_nil] at h
  simp only [List.append_assoc]
  exact Course.reading (f := fun c _ => c.init) (p := fun p => block [delay p.tPower, setPhase .resetPending,
    handshakeStep p.nibble1 p.tInit1, handshakeStep p.nibble2 p.tInit2, handshakeStep p.nibble3 p.tInit3,
    handshakeStep p.nibble4 p.tInit4, setPhase .functionLocked]) h

/-- Function set, the shadows, backlight on, clear (R133). -/
theorem course_setup : Course c r
    (stitch 18 (fun _ => r) (switchAt 7 { r with bl := true } { r with phase := .ready, bl := true }))
    (commandTrace c r.bl (functionSetByte c) ++ commandTrace c r.bl r.em ++ commandTrace c r.bl r.dc ++
      [.write c.pins.bl] ++ commandTrace c true c.family.clear) () setup := by
  have hfunction : Sends c r _ () (fun s => sendByte (functionSetByte s.cfg) .command s) :=
    Course.reading (f := fun c _ => functionSetByte c) (p := fun v => sendByte v .command) (sends_command _)
  have hem : Sends c r _ () (fun s => sendByte s.em .command s) :=
    Course.reading (f := fun _ r => r.em) (p := fun v => sendByte v .command) (sends_command _)
  have hdc : Sends c r _ () (fun s => sendByte s.dc .command s) :=
    Course.reading (f := fun _ r => r.dc) (p := fun v => sendByte v .command) (sends_command _)
  have hclear : Sends c { r with bl := true } _ () (fun s => sendByte s.cfg.family.clear .command s) :=
    Course.reading (f := fun c _ => c.family.clear) (p := fun v => sendByte v .command) (sends_command _)
  have h := course_block_cons hfunction (course_block_cons hem (course_block_cons hdc
    (course_block_cons (course_setBacklight true) (course_block_cons hclear
    (course_block_singleton (course_setPhase .ready))))))
  simp only [accesses, accesses_commandTrace, stitch_const, stitch_const_switchAt, stitch_const_stitch,
    List.append_nil] at h
  simp only [List.append_assoc]
  exact h

/-- The registers of INIT, by how many of its 37 accesses have succeeded (R131, R135). -/
def initRegisters (r : Registers) (k : Nat) : Registers :=
  if k < 12 then { r with phase := .resetPending }
  else if k < 30 then { r with phase := .functionLocked }
  else if k < 37 then { r with phase := .functionLocked, bl := true }
  else { r with phase := .ready, bl := true }

theorem initRegisters_eq (k : Nat) :
    stitch 12 (switchAt 12 { r with phase := .resetPending } { r with phase := .functionLocked })
      (stitch 18 (fun _ => { r with phase := .functionLocked })
        (switchAt 7 { r with phase := .functionLocked, bl := true } { r with phase := .ready, bl := true })) k =
      initRegisters r k := by
  grind [stitch, switchAt, initRegisters]

theorem course_init : Course c r (initRegisters r) (initTrace c r.bl r.em r.dc) 0 (requestBody .init) := by
  have h := course_returning 0
    (course_block_cons (c := c) (r := r) course_handshake (course_block_singleton course_setup))
  simp only [← List.append_assoc] at h
  exact h.congr fun k _ => initRegisters_eq k

end

end Sys2Proof.Machine
end

section
/-! SUPPORT. What every request does, once for all of them: its trace, its answer and the course of its registers, as
functions of the configuration, the registers before and the two bytes a status read gets. -/

namespace Sys2Proof.Machine

/-- The row NEXT_LINE goes to when the status read gets these two bytes (R170). -/
def lineAfter (c : Config) (n : Byte × Byte) : Nat := nextRow c (rowOf c (statusAddr (assembleStatus n.1 n.2)))

/-- The trace of a request that nothing stops. -/
def requestTrace (c : Config) (r : Registers) (n : Byte × Byte) : Instr → List Event
  | .init => initTrace c r.bl r.em r.dc
  | .sendCmd value => commandTrace c r.bl value
  | .sendData value => dataTrace c r.bl value
  | .clear => commandTrace c r.bl c.family.clear
  | .home => commandTrace c r.bl c.family.home
  | .setCursor row col => commandTrace c r.bl
    (cursorCommand c (resolve c row.toInt col.toInt).1 (resolve c row.toInt col.toInt).2)
  | .getAddr | .getLine | .isBusy => statusTrace c r.bl n.1 n.2
  | .cursorOn => commandTrace c r.bl (maskedUpdate r.dc c.family.dcCursor true)
  | .cursorOff => commandTrace c r.bl (maskedUpdate r.dc c.family.dcCursor false)
  | .blinkOn => commandTrace c r.bl (maskedUpdate r.dc c.family.dcBlink true)
  | .blinkOff => commandTrace c r.bl (maskedUpdate r.dc c.family.dcBlink false)
  | .displayOn => commandTrace c r.bl (maskedUpdate r.dc c.family.dcDisplay true) ++
    [Event.write (backlightBits c true)]
  | .displayOff => Event.write (backlightBits c false) ::
    commandTrace c false (maskedUpdate r.dc c.family.dcDisplay false)
  | .setBacklight value => [Event.write (backlightBits c (backlightOn value))]
  | .nextLine => statusTrace c r.bl n.1 n.2 ++ commandTrace c r.bl (cursorCommand c (lineAfter c n) 0)
  | .flagSet reg mask => commandTrace c r.bl (maskedUpdate (r.shadow (flagReg reg)) mask true)
  | .flagClr reg mask => commandTrace c r.bl (maskedUpdate (r.shadow (flagReg reg)) mask false)
  | _ => []

/-- What a request that nothing stops answers. -/
def requestAnswer (c : Config) (n : Byte × Byte) : Instr → Byte
  | .setCursor row col => cursorAddress c (resolve c row.toInt col.toInt).1 (resolve c row.toInt col.toInt).2
  | .getAddr => assembleStatus n.1 n.2
  | .getLine => BitVec.ofNat 8 (rowOf c (statusAddr (assembleStatus n.1 n.2)))
  | .isBusy => boolValue (statusBusy (assembleStatus n.1 n.2))
  | .nextLine => cursorAddress c (lineAfter c n) 0
  | _ => 0

/-- The registers a request assigns, by how many of its accesses have succeeded (R20). -/
def requestRegisters (c : Config) (r : Registers) : Instr → Nat → Registers
  | .init => initRegisters r
  | .cursorOn => fun _ => r.update .display c.family.dcCursor true
  | .cursorOff => fun _ => r.update .display c.family.dcCursor false
  | .blinkOn => fun _ => r.update .display c.family.dcBlink true
  | .blinkOff => fun _ => r.update .display c.family.dcBlink false
  | .displayOn => switchAt 6 (r.update .display c.family.dcDisplay true)
    { r.update .display c.family.dcDisplay true with bl := true }
  | .displayOff => switchAt 1 { r with bl := false }
    (Registers.update { r with bl := false } .display c.family.dcDisplay false)
  | .setBacklight value => fun _ => { r with bl := backlightOn value }
  | .flagSet reg mask => fun _ => r.update (flagReg reg) mask true
  | .flagClr reg mask => fun _ => r.update (flagReg reg) mask false
  | _ => fun _ => r

section
variable {c : Config} {r : Registers} (n : Byte × Byte)

/-- The flag of the configuration a request without a mask names. -/
theorem course_flag (mask : Config → Byte) (reg : FlagReg) (set : Bool) :
    Course c r (fun _ => r.update reg (mask c) set) (commandTrace c r.bl (maskedUpdate (r.shadow reg) (mask c) set)) 0
      (fun s => returning (flagUpdate reg (mask s.cfg) set) 0 s) :=
  Course.reading (f := fun c _ => mask c) (p := fun m => returning (flagUpdate reg m set) 0)
    (course_returning 0 (course_flagUpdate reg (mask c) set))

theorem course_displayOn : Course c r (requestRegisters c r .displayOn) (requestTrace c r n .displayOn) 0
    (requestBody .displayOn) := by
  have h := course_block_cons (c := c) (r := r) (course_flagUpdate .display c.family.dcDisplay true)
    (course_block_singleton (course_setBacklight true))
  exact Course.reading (f := fun c _ => c.family.dcDisplay)
    (p := fun m => returning (block [flagUpdate .display m true, setBacklight true]) 0) (course_returning 0 h)

theorem course_displayOff : Course c r (requestRegisters c r .displayOff) (requestTrace c r n .displayOff) 0
    (requestBody .displayOff) := by
  have h := course_block_cons (c := c) (r := r) (course_setBacklight false)
    (course_block_singleton (course_flagUpdate .display c.family.dcDisplay false))
  exact Course.reading (f := fun c _ => c.family.dcDisplay)
    (p := fun m => returning (block [setBacklight false, flagUpdate .display m false]) 0) (course_returning 0 h)

/-- A request that reads no byte has one course from given registers. -/
theorem course_request {i : Instr} (hread : i ∉ [Instr.getAddr, .getLine, .isBusy, .nextLine]) :
    Course c r (requestRegisters c r i) (requestTrace c r n i) (requestAnswer c n i) (requestBody i) := by
  cases i with
  | getAddr | getLine | isBusy | nextLine => simp at hread
  | init => exact course_init
  | sendCmd value => exact course_returning 0 (sends_command value)
  | sendData value => exact course_returning 0 (sends_data value)
  | clear =>
    exact Course.reading (f := fun c _ => c.family.clear) (p := fun v => returning (sendByte v .command) 0)
      (course_returning 0 (sends_command _))
  | home =>
    exact Course.reading (f := fun c _ => c.family.home) (p := fun v => returning (sendByte v .command) 0)
      (course_returning 0 (sends_command _))
  | setCursor row col =>
    exact Course.reading (f := fun c _ => resolve c row.toInt col.toInt) (p := fun p => placeCursor p.1 p.2)
      (sends_placeCursor _ _)
  | cursorOn => exact course_flag (fun c => c.family.dcCursor) .display true
  | cursorOff => exact course_flag (fun c => c.family.dcCursor) .display false
  | blinkOn => exact course_flag (fun c => c.family.dcBlink) .display true
  | blinkOff => exact course_flag (fun c => c.family.dcBlink) .display false
  | displayOn => exact course_displayOn n
  | displayOff => exact course_displayOff n
  | setBacklight value => exact course_returning 0 (course_setBacklight _)
  | flagSet reg mask => exact course_returning 0 (course_flagUpdate _ mask true)
  | flagClr reg mask => exact course_returning 0 (course_flagUpdate _ mask false)
  | _ => exact sends_done 0

end

theorem clean_statusTrace (c : Config) (bl : Bool) (n₀ n₁ : Byte) : Clean (statusTrace c bl n₀ n₁) := by
  simp [Clean, statusTrace, Event.isFailure]

theorem clean_requestTrace (c : Config) (r : Registers) (n : Byte × Byte) (i : Instr) :
    Clean (requestTrace c r n i) := by
  cases i with
  | getAddr | getLine | isBusy => exact clean_statusTrace c r.bl n.1 n.2
  | nextLine =>
    exact List.forall_mem_append.2 ⟨clean_statusTrace c r.bl n.1 n.2, (sends_command (c := c) (r := r) _).clean⟩
  | _ => exact (course_request n (by simp)).clean

/-- What is made of the returned value takes no access. -/
theorem plays_andThen_map {α β : Type} {R : Nat → Registers} {tr : List Event} {a : α} {s : State} {run : Run α}
    (f : α → State → β) (b : β) (h : Plays R tr a s run) (hf : ∀ t, t.cfg = s.cfg → f a t = b) :
    Plays R tr b s (run.andThen fun a t => .done (f a t) t) := by
  cases run with
  | failed t => exact h
  | done a' t =>
    obtain ⟨rfl, hok, hdid⟩ := h
    exact ⟨hf t hdid.outside.1, hok, hdid⟩

/-- Every request plays its trace. The bytes are those the transport answers. -/
theorem plays_request (i : Instr) (s : State) :
    ∃ n : Byte × Byte, (s.accessesOk 8 → assembleStatus n.1 n.2 = s.statusByte) ∧
      Plays (requestRegisters s.cfg s.registers i) (requestTrace s.cfg s.registers n i) (requestAnswer s.cfg n i) s
        (requestBody i s) := by
  obtain ⟨n, hread⟩ := plays_readStatus s
  refine ⟨n, fun hok => ?_, ?_⟩
  · rw [readStatus_done hok] at hread
    exact hread.1.symm
  cases i with
  | getAddr => exact hread
  | getLine =>
    exact plays_andThen_map (fun st s => BitVec.ofNat 8 (rowOf s.cfg (statusAddr st))) _ hread fun t ht => by
      rw [ht]
      rfl
  | isBusy => exact plays_andThen_map (fun st _ => boolValue (statusBusy st)) _ hread fun _ _ => rfl
  | nextLine =>
    refine plays_andThen_const (clean_statusTrace s.cfg s.bl n.1 n.2) hread fun t _ ht hr => ?_
    rw [ht]
    exact (sends_placeCursor _ _).plays t ht hr
  | _ => exact (course_request n (by simp)).plays s rfl rfl

/-! ### How an instruction ends -/

/-- How a request can end: refused, with nothing done (R193); run to its end and answered OK; cut at the first of its
accesses that fails (R194). -/
inductive Ended (i : Instr) (s : State) : State → Prop
  | refused {st : Status} (h : admission (neededPhase i) (legalIn s.cfg.family i) s = some st) :
    Ended i s (respond st 0 s)
  | completed {n : Byte × Byte} {t : State} (hlegal : legalIn s.cfg.family i = true) (ha : s.admitted (neededPhase i))
    (hok : s.accessesOk (accesses (requestTrace s.cfg s.registers n i)))
    (hdid : Did (requestRegisters s.cfg s.registers i (accesses (requestTrace s.cfg s.registers n i)))
      (requestTrace s.cfg s.registers n i) s t) (hn : s.accessesOk 8 → assembleStatus n.1 n.2 = s.statusByte) :
    Ended i s (respond .ok (requestAnswer s.cfg n i) t)
  | cut {n : Byte × Byte} {k : Nat} {t : State} (hlegal : legalIn s.cfg.family i = true)
    (ha : s.admitted (neededPhase i)) (hk : k < accesses (requestTrace s.cfg s.registers n i)) (hok : s.accessesOk k)
    (hbad : ¬ s.accessesOk (k + 1))
    (hdid : Did (requestRegisters s.cfg s.registers i k) (cutAt k (requestTrace s.cfg s.registers n i)) s t)
    (hn : s.accessesOk 8 → assembleStatus n.1 n.2 = s.statusByte) : Ended i s (respond .transportFailure 0 t)

theorem exec_ended {i : Instr} (hi : isRequest i = true) (s : State) : ∃ t, exec i s = .next t ∧ Ended i s t := by
  obtain ⟨n, hn, hplays⟩ := plays_request i s
  rw [exec_request hi]
  rcases operation_cases (neededPhase i) (legalIn s.cfg.family i) (requestBody i) s with
    ⟨st, hst, hop⟩ | ⟨hnone, v, t, hbody, hop⟩ | ⟨hnone, t, hbody, hop⟩
  · exact ⟨_, hop, .refused hst⟩
  all_goals
    obtain ⟨hlegal, ha⟩ := (admission_none_iff _ _ s).1 hnone
    rw [hbody] at hplays
    refine ⟨_, hop, ?_⟩
  · obtain ⟨rfl, hok, hdid⟩ := hplays
    exact .completed hlegal ha hok hdid hn
  · obtain ⟨k, hk, hok, hbad, hdid⟩ := hplays
    exact .cut hlegal ha hk hok hbad hdid hn

theorem ended_of_exec {i : Instr} {s t : State} (hi : isRequest i = true) (h : exec i s = .next t) : Ended i s t := by
  obtain ⟨u, hu, hended⟩ := exec_ended hi s
  obtain rfl := Host.Outcome.next.inj (hu.symm.trans h)
  exact hended

end Sys2Proof.Machine
end

section
/-! SUPPORT and the statements on what any instruction leaves (10_state.md section 1, 60_exceptions.md section 3): the
trace ends at the first failure, and a register changes only as the request's course says. -/

namespace Sys2Proof.Machine

/-! ### A trace that is cut -/

/-- A cut trace is the trace up to an access, and that access failed. -/
theorem cutAt_eq {tr : List Event} {k : Nat} (hclean : Clean tr) (hk : k < accesses tr) :
    ∃ before e e' after, tr = before ++ e' :: after ∧ cutAt k tr = before ++ [e] ∧ accesses before = k ∧
      e.isFailure = true ∧ e.formed = e'.formed := by
  induction tr generalizing k with
  | nil => simp [accesses] at hk
  | cons d tr ih =>
    obtain ⟨hd, htr⟩ := List.forall_mem_cons.1 hclean
    cases d with
    | writeFail b | readFail => cases hd
    | delay t =>
      obtain ⟨before, e, e', after, rfl, hcut, hacc, he⟩ := ih htr hk
      exact ⟨.delay t :: before, e, e', after, rfl, by rw [cutAt, hcut]; rfl, hacc, he⟩
    | write b =>
      cases k with
      | zero => exact ⟨[], .writeFail b, .write b, tr, rfl, rfl, rfl, rfl, rfl⟩
      | succ k =>
        obtain ⟨before, e, e', after, rfl, hcut, hacc, he⟩ := ih htr (Nat.succ_lt_succ_iff.1 hk)
        exact ⟨.write b :: before, e, e', after, rfl, by rw [cutAt, hcut]; rfl, congrArg Nat.succ hacc, he⟩
    | read v =>
      cases k with
      | zero => exact ⟨[], .readFail, .read v, tr, rfl, rfl, rfl, rfl, rfl⟩
      | succ k =>
        obtain ⟨before, e, e', after, rfl, hcut, hacc, he⟩ := ih htr (Nat.succ_lt_succ_iff.1 hk)
        exact ⟨.read v :: before, e, e', after, rfl, by rw [cutAt, hcut]; rfl, congrArg Nat.succ hacc, he⟩

/-- Only the last event of the trace may be a failure (R194). -/
abbrev FailsLast (tr : List Event) : Prop := ∀ e ∈ tr.dropLast, e.isFailure = false

theorem Clean.failsLast {tr : List Event} (h : Clean tr) : FailsLast tr := fun e he => h e (List.dropLast_subset _ he)

theorem Clean.any_isFailure {tr : List Event} (h : Clean tr) : tr.any Event.isFailure = false := by
  rw [List.any_eq_false]
  exact fun e he => by rw [h e he]; exact Bool.false_ne_true

theorem failsLast_cutAt {tr : List Event} {k : Nat} (hclean : Clean tr) (hk : k < accesses tr) :
    FailsLast (cutAt k tr) ∧ (cutAt k tr).getLast?.map Event.isFailure = some true := by
  obtain ⟨before, e, e', after, rfl, hcut, -, he, -⟩ := cutAt_eq hclean hk
  rw [FailsLast, hcut, List.dropLast_concat, List.getLast?_concat, Option.map_some, he]
  exact ⟨(List.forall_mem_append.1 hclean).1, rfl⟩

/-- A trace that fails last has a failure exactly if its last event is one. -/
theorem FailsLast.any_isFailure_iff {tr : List Event} (h : FailsLast tr) :
    tr.any Event.isFailure = true ↔ tr.getLast?.map Event.isFailure = some true := by
  rcases List.eq_nil_or_concat tr with rfl | ⟨before, e, rfl⟩
  · simp
  · rw [List.concat_eq_append, FailsLast, List.dropLast_concat] at h
    rw [List.concat_eq_append, List.any_append, Clean.any_isFailure h, List.getLast?_concat]
    simp

theorem any_isFailure_cutAt {tr : List Event} {k : Nat} (hclean : Clean tr) (hk : k < accesses tr) :
    (cutAt k tr).any Event.isFailure = true := by
  obtain ⟨hlast, hfail⟩ := failsLast_cutAt hclean hk
  exact hlast.any_isFailure_iff.2 hfail

/-! ### Traffic -/

/-- The trace of a piece of traffic that nothing stops. -/
def trafficTrace (c : Config) (r : Registers) (i : Instr) : List Event :=
  match encodeOf c.family c.pins i with
  | .command b => commandTrace c r.bl b
  | .transport b => [.write b]
  | .request _ => []

/-- Traffic sends its byte, and leaves the registers. -/
theorem exec_traffic_sends {i : Instr} (hi : isRequest i = false) (s : State) :
    ∃ p, exec i s = internal p s ∧ Sends s.cfg s.registers (trafficTrace s.cfg s.registers i) () p := by
  cases i with
  | cmdClearDisplay | cmdReturnHome | cmdEntryModeSet | cmdDisplayControl | cmdFunctionSet | cmdSetDDRAMAddress =>
    exact ⟨_, rfl, sends_command _⟩
  | tbWrite | tbReadMode | tbBacklightOnly => exact ⟨_, rfl, sends_tw _⟩
  | _ => cases hi

/-- How a piece of traffic can end: not sent, when nothing is sent any more (R226); sent; or cut at the
first access that fails (R194). -/
inductive TrafficEnded (i : Instr) (s : State) : State → Prop
  | dead (h : (configValid s.cfg && !s.fault) = false) : TrafficEnded i s s
  | sent {t : State} (h : (configValid s.cfg && !s.fault) = true)
    (hok : s.accessesOk (accesses (trafficTrace s.cfg s.registers i)))
    (hdid : Did s.registers (trafficTrace s.cfg s.registers i) s t) : TrafficEnded i s t
  | cut {k : Nat} {t : State} (h : (configValid s.cfg && !s.fault) = true)
    (hk : k < accesses (trafficTrace s.cfg s.registers i)) (hok : s.accessesOk k) (hbad : ¬ s.accessesOk (k + 1))
    (hdid : Did s.registers (cutAt k (trafficTrace s.cfg s.registers i)) s t) : TrafficEnded i s t

theorem clean_trafficTrace (c : Config) (r : Registers) (i : Instr) : Clean (trafficTrace c r i) := by
  unfold trafficTrace
  split
  · exact (sends_command (c := c) (r := r) _).clean
  · exact List.forall_mem_singleton.2 rfl
  · exact List.forall_mem_nil _

theorem exec_traffic_ended {i : Instr} (hi : isRequest i = false) (s : State) :
    ∃ t, exec i s = .next t ∧ TrafficEnded i s t := by
  obtain ⟨p, hexec, hsends⟩ := exec_traffic_sends hi s
  have hplays := hsends.plays s rfl rfl
  cases halive : configValid s.cfg && !s.fault with
  | false => exact ⟨s, by rw [hexec, internal, halive]; rfl, .dead halive⟩
  | true =>
    rw [hexec, internal, if_pos halive]
    cases hrun : p s with
    | done _ t =>
      rw [hrun] at hplays
      exact ⟨t, rfl, .sent halive hplays.2.1 hplays.2.2⟩
    | failed t =>
      rw [hrun] at hplays
      obtain ⟨k, hk, hok, hbad, hdid⟩ := hplays
      exact ⟨t, rfl, .cut halive hk hok hbad hdid⟩

theorem trafficEnded_of_exec {i : Instr} {s t : State} (hi : isRequest i = false) (h : exec i s = .next t) :
    TrafficEnded i s t := by
  obtain ⟨u, hu, hended⟩ := exec_traffic_ended hi s
  obtain rfl := Host.Outcome.next.inj (hu.symm.trans h)
  exact hended

/-! ### What any instruction leaves -/

/-- What an instruction that took `s` to `t` may have changed (R20, R25, R26, R28, R34). -/
structure Effect (i : Instr) (s t : State) : Prop where
  cfg : t.cfg = s.cfg
  todo : t.todo = s.todo
  requests : t.requests = s.requests
  responses : s.responses <+: t.responses
  events : ∃ tr, FailsLast tr ∧ t.trace = s.trace ++ tr ∧ t.latch = latchAfter tr s.latch ∧
    t.fault = (s.fault || tr.any Event.isFailure)
  registers : t.registers = s.registers ∨ legalIn s.cfg.family i = true ∧ s.phase = neededPhase i ∧
    ∃ k, t.registers = requestRegisters s.cfg s.registers i k

theorem Did.effect {i : Instr} {r : Registers} {tr : List Event} {s t : State} (h : Did r tr s t)
    (hlast : FailsLast tr) (hr : r = s.registers ∨ legalIn s.cfg.family i = true ∧ s.phase = neededPhase i ∧
      ∃ k, r = requestRegisters s.cfg s.registers i k) (rs : List Response) :
    Effect i s { t with responses := t.responses ++ rs } := by
  obtain ⟨hcfg, htodo, hreq, hres⟩ := h.outside
  refine ⟨hcfg, htodo, hreq, ⟨rs, by rw [hres]⟩, ⟨tr, hlast, h.trace, h.latch, h.fault⟩, ?_⟩
  rw [← h.registers] at hr
  exact hr

/-- A request only adds one response to what its procedure did (R94). -/
theorem Ended.responses {i : Instr} {s t : State} (h : Ended i s t) : ∃ x, t.responses = s.responses ++ [x] := by
  cases h with
  | refused => exact ⟨_, rfl⟩
  | completed _ _ _ hdid | cut _ _ _ _ _ hdid =>
    obtain ⟨-, -, -, hres⟩ := hdid.outside
    exact ⟨_, congrArg (· ++ _) hres⟩

theorem Ended.effect {i : Instr} {s t : State} (h : Ended i s t) : Effect i s t := by
  cases h with
  | refused => exact (Did.nil s).effect (List.forall_mem_nil _) (.inl rfl) _
  | completed hlegal ha _ hdid =>
    exact hdid.effect (clean_requestTrace _ _ _ _).failsLast (.inr ⟨hlegal, ha.2.2, _, rfl⟩) _
  | cut hlegal ha hk _ _ hdid =>
    exact hdid.effect (failsLast_cutAt (clean_requestTrace _ _ _ _) hk).1 (.inr ⟨hlegal, ha.2.2, _, rfl⟩) _

theorem TrafficEnded.effect {i : Instr} {s t : State} (h : TrafficEnded i s t) : Effect i s t := by
  have hclean := clean_trafficTrace s.cfg s.registers i
  have hres (t : State) : { t with responses := t.responses ++ [] } = t := by rw [List.append_nil]
  refine hres t ▸ ?_
  cases h with
  | dead => exact (Did.nil s).effect (List.forall_mem_nil _) (.inl rfl) []
  | sent _ _ hdid => exact hdid.effect hclean.failsLast (.inl rfl) []
  | cut _ hk _ _ hdid => exact hdid.effect (failsLast_cutAt hclean hk).1 (.inl rfl) []

theorem effect_of_exec {i : Instr} {s t : State} (h : exec i s = .next t) : Effect i s t := by
  cases hi : isRequest i with
  | true => exact (ended_of_exec hi h).effect
  | false => exact (trafficEnded_of_exec hi h).effect

/-! ### Which request assigns which register -/

section
variable {c : Config} {r : Registers} {i : Instr} {k : Nat}

/-- A field that both parts of a course agree on. -/
theorem switchAt_field {α : Type} (field : Registers → α) {a b : Registers} {v : α} (ha : field a = v)
    (hb : field b = v) (n k : Nat) : field (switchAt n a b k) = v := by
  unfold switchAt
  split_ifs
  · exact ha
  · exact hb

theorem requestRegisters_phase (h : i ≠ .init) : (requestRegisters c r i k).phase = r.phase := by
  cases i with
  | init => exact absurd rfl h
  | displayOn | displayOff => exact switchAt_field Registers.phase (by rfl) (by rfl) _ k
  | flagSet reg mask | flagClr reg mask =>
    cases hreg : flagReg reg <;> simp [requestRegisters, hreg, Registers.update, Registers.setShadow]
  | _ => rfl

theorem initRegisters_em : (initRegisters r k).em = r.em := by
  unfold initRegisters
  split_ifs <;> rfl

theorem initRegisters_dc : (initRegisters r k).dc = r.dc := by
  unfold initRegisters
  split_ifs <;> rfl

/-- A legal `reg` is 0 for EM or 1 for DC (R156). -/
theorem flagReg_of_legal {reg : Byte} {f : Family} {mask : Byte} (h : flagOperandsLegal f reg mask = true) :
    reg = 0 ∧ flagReg reg = .entry ∨ reg = 1 ∧ flagReg reg = .display := by
  rcases (legalIn_iff f (.flagSet reg mask)).1 h with ⟨rfl, -⟩ | ⟨rfl, -⟩
  · exact .inl ⟨rfl, rfl⟩
  · exact .inr ⟨rfl, rfl⟩

theorem requestRegisters_em (hlegal : legalIn c.family i = true) (h : (requestRegisters c r i k).em ≠ r.em) :
    ∃ mask, i = .flagSet 0 mask ∨ i = .flagClr 0 mask := by
  cases i with
  | init => exact absurd initRegisters_em h
  | displayOn | displayOff => exact absurd (switchAt_field Registers.em (by rfl) (by rfl) _ k) h
  | flagSet reg mask | flagClr reg mask =>
    rcases flagReg_of_legal hlegal with ⟨rfl, -⟩ | ⟨rfl, -⟩
    · simp
    · exact absurd rfl h
  | _ => exact absurd rfl h

theorem requestRegisters_dc (hlegal : legalIn c.family i = true) (h : (requestRegisters c r i k).dc ≠ r.dc) :
    i ∈ [Instr.cursorOn, .cursorOff, .blinkOn, .blinkOff, .displayOn, .displayOff] ∨
      ∃ mask, i = .flagSet 1 mask ∨ i = .flagClr 1 mask := by
  cases i with
  | init => exact absurd initRegisters_dc h
  | cursorOn | cursorOff | blinkOn | blinkOff | displayOn | displayOff => exact .inl (by simp)
  | flagSet reg mask | flagClr reg mask =>
    rcases flagReg_of_legal hlegal with ⟨rfl, -⟩ | ⟨rfl, -⟩
    · exact absurd rfl h
    · simp
  | _ => exact absurd rfl h

theorem requestRegisters_bl (h : (requestRegisters c r i k).bl ≠ r.bl) :
    i ∈ [Instr.init, .displayOn, .displayOff] ∨ ∃ value, i = .setBacklight value := by
  cases i with
  | init | displayOn | displayOff => exact .inl (by simp)
  | setBacklight value => exact .inr ⟨value, rfl⟩
  | flagSet reg mask | flagClr reg mask =>
    cases hreg : flagReg reg <;> simp [requestRegisters, hreg, Registers.update, Registers.setShadow] at h
  | _ => exact absurd rfl h

end

/-- A register that changed was assigned by a legal request in the phase it needs. -/
theorem Effect.changed {α : Type} {i : Instr} {s t : State} (h : Effect i s t) (field : Registers → α)
    (hne : field t.registers ≠ field s.registers) : legalIn s.cfg.family i = true ∧ s.phase = neededPhase i ∧
      ∃ k, field (requestRegisters s.cfg s.registers i k) ≠ field s.registers := by
  rcases h.registers with hr | ⟨hlegal, hphase, k, hr⟩
  · exact absurd (congrArg field hr) hne
  · exact ⟨hlegal, hphase, k, hr ▸ hne⟩

/-- Settles O46: `Effect`, and which request assigns which register. -/
theorem registersHaveOnlyTheirWriters : Obligations.RegistersHaveOnlyTheirWriters := by
  intro i s t h
  have heffect := effect_of_exec h
  obtain ⟨tr, hlast, htrace, hlatch, hfault⟩ := heffect.events
  refine ⟨heffect.cfg, heffect.todo, heffect.requests, heffect.responses, ⟨tr, htrace, hlatch, ?_⟩,
    fun hne => ?phase, fun hne => ?em, fun hne => ?dc, fun hne => ?bl⟩
  · rw [hfault, Bool.or_eq_true, hlast.any_isFailure_iff]
  case phase =>
    obtain ⟨-, -, k, hk⟩ := heffect.changed Registers.phase hne
    by_contra hinit
    exact hk (requestRegisters_phase hinit)
  case em =>
    obtain ⟨hlegal, -, k, hk⟩ := heffect.changed Registers.em hne
    exact requestRegisters_em hlegal hk
  case dc =>
    obtain ⟨hlegal, -, k, hk⟩ := heffect.changed Registers.dc hne
    exact requestRegisters_dc hlegal hk
  case bl =>
    obtain ⟨-, -, k, hk⟩ := heffect.changed Registers.bl hne
    exact requestRegisters_bl hk

/-! ### Steps -/

/-- A step runs an instruction, or does nothing. -/
theorem step_effect {s t : State} (h : step s = .next t) :
    t = s ∨ ∃ i u, Effect i u t ∧ u.registers = s.registers := by
  rcases htodo : s.todo with _ | ⟨x, rest⟩
  · rcases hreq : s.requests with _ | ⟨w, rest⟩
    · rw [step_idle htodo hreq] at h
      exact .inl (Host.Outcome.next.inj h).symm
    · rw [step_request htodo hreq] at h
      exact .inr ⟨_, _, effect_of_exec h, rfl⟩
  · cases hdecode : decodeOf s.cfg.family s.cfg.pins x.code with
    | error e =>
      rw [step_traffic_error htodo hdecode] at h
      cases h
    | ok i =>
      rw [step_traffic htodo hdecode] at h
      exact .inr ⟨_, _, effect_of_exec h, rfl⟩

/-- Settles O47: only INIT writes `phase`, and it needs UNPOWERED. -/
theorem phaseNeverGoesBack : Obligations.PhaseNeverGoesBack := by
  intro s t h
  have hinit (hne : t.phase ≠ s.phase) : s.phase = .unpowered := by
    rcases step_effect h with rfl | ⟨i, u, heffect, hreg⟩
    · exact absurd rfl hne
    · have hphase : u.phase = s.phase := congrArg Registers.phase hreg
      rw [← hphase] at hne ⊢
      obtain ⟨-, hneed, k, hk⟩ := heffect.changed Registers.phase hne
      obtain rfl : i = .init := by
        by_contra hi
        exact hk (requestRegisters_phase hi)
      exact hneed
  refine ⟨?_, fun hready => ?_, hinit⟩
  · by_cases hne : t.phase = s.phase
    · rw [hne]
      exact BitVec.le_refl _
    · rw [hinit hne]
      exact Nat.zero_le _
  · by_contra hne
    have hunpowered := hinit fun heq => hne (heq.trans hready)
    rw [hready] at hunpowered
    cases hunpowered

/-- Settles O48, by induction on the requests that wait: each step takes the oldest and adds one response. -/
theorem everyWaitingRequestIsAnswered : Obligations.EveryWaitingRequestIsAnswered := by
  intro s htodo
  generalize hws : s.requests = ws
  induction ws generalizing s with
  | nil => exact ⟨s, rfl, hws, htodo, rfl, List.prefix_rfl, List.prefix_rfl⟩
  | cons w rest ih =>
    obtain ⟨t, hexec, hended⟩ := exec_ended (isRequest_decodeRequest w) { s with requests := rest }
    have heffect := hended.effect
    obtain ⟨x, hx⟩ := hended.responses
    obtain ⟨tr, -, htrace, -, -⟩ := heffect.events
    obtain ⟨u, hrun, hreq, htodo', hlen, hres, htr⟩ := ih t (heffect.todo.trans htodo) heffect.requests
    refine ⟨u, (run_succ ((step_request htodo hws).trans hexec)).trans hrun, hreq, htodo', ?_,
      heffect.responses.trans hres, List.IsPrefix.trans ⟨tr, htrace.symm⟩ htr⟩
    rw [hlen, hx, List.length_append, List.length_singleton, List.length_cons]
    show s.responses.length + 1 + rest.length = _
    omega

/-! ### The simulation (R68) -/

theorem admission_ne_transportFailure {need : Phase} {legal : Bool} {s : State} {st : Status}
    (h : admission need legal s = some st) : st ≠ .transportFailure := by
  rintro rfl
  unfold admission at h
  split_ifs at h <;> cases h

/-- Settles O25: in simulation every access succeeds, so nothing is ever cut. -/
theorem noTransportFailureInSimulation : Obligations.NoTransportFailureInSimulation := by
  intro i s t hsim h
  cases hi : isRequest i with
  | true =>
    cases ended_of_exec hi h with
    | refused hst =>
      refine ⟨rfl, fun v hv => admission_ne_transportFailure hst ?_⟩
      exact congrArg Response.status (List.singleton_inj.1 (List.append_cancel_left hv))
    | @completed n u _ _ _ hdid =>
      refine ⟨?_, fun v hv => ?_⟩
      · show u.fault = s.fault
        rw [hdid.fault, (clean_requestTrace _ _ _ _).any_isFailure, Bool.or_false]
      · rw [respond_responses, hdid.outside.2.2.2] at hv
        cases congrArg Response.status (List.singleton_inj.1 (List.append_cancel_left hv))
    | cut _ _ _ _ hbad => exact absurd (.inl hsim) hbad
  | false =>
    have hsame : t.responses = s.responses → ∀ v, t.responses ≠ s.responses ++ [⟨.transportFailure, v⟩] :=
      fun heq v hv => by simp [heq] at hv
    cases trafficEnded_of_exec hi h with
    | dead => exact ⟨rfl, hsame rfl⟩
    | sent _ _ hdid =>
      exact ⟨by rw [hdid.fault, (clean_trafficTrace _ _ i).any_isFailure, Bool.or_false], hsame hdid.outside.2.2.2⟩
    | cut _ _ _ hbad => exact absurd (.inl hsim) hbad

end Sys2Proof.Machine
end

section
/-! The statements on operations that are cut at a given access and on INIT (41_init_sequence.md section 2,
43_shadow_flags.md, 60_exceptions.md section 3). -/

namespace Sys2Proof.Machine

/-! ### Which access fails -/

section
variable {s : State} {before rest : List Answer} (hsim : s.cfg.sim = false)
  (hanswers : s.answers = before ++ .fail :: rest) (hbefore : Answer.fail ∉ before)
include hsim hanswers hbefore

/-- The first failure of the oracle is the access it is the answer to. -/
theorem accessesOk_iff_le_failure {k : Nat} : s.accessesOk k ↔ k ≤ before.length := by
  have hfail : Answer.fail ∉ s.answers.take k ↔ k ≤ before.length := by
    rw [hanswers, List.take_append]
    refine ⟨fun h => ?_, fun h => ?_⟩
    · by_contra hlt
      obtain ⟨j, hj⟩ : ∃ j, k - before.length = j + 1 := ⟨k - before.length - 1, by omega⟩
      exact h (List.mem_append_right _ (by rw [hj]; exact List.mem_cons_self ..))
    · rw [Nat.sub_eq_zero_of_le h, List.take_zero, List.append_nil]
      exact fun hmem => hbefore (List.mem_of_mem_take hmem)
  rw [State.accessesOk, hsim, hfail]
  simp

/-- A request that is let in and makes the access that fails is cut there. -/
theorem exec_cut {i : Instr} (hi : isRequest i = true) (hlegal : legalIn s.cfg.family i = true)
    (ha : s.admitted (neededPhase i)) (hk : ∀ n, before.length < accesses (requestTrace s.cfg s.registers n i)) :
    ∃ n t, exec i s = .next (respond .transportFailure 0 t) ∧
      Did (requestRegisters s.cfg s.registers i before.length)
        (cutAt before.length (requestTrace s.cfg s.registers n i)) s t := by
  have hindex := @accessesOk_iff_le_failure s before rest hsim hanswers hbefore
  obtain ⟨t, hexec, hended⟩ := exec_ended hi s
  cases hended with
  | refused hst =>
    rw [(admission_none_iff _ _ _).2 ⟨hlegal, ha⟩] at hst
    cases hst
  | @completed n _ _ _ hok _ => exact absurd (hindex.1 hok) (Nat.not_le.2 (hk n))
  | @cut n k t _ _ _ hok hbad hdid =>
    obtain rfl : k = before.length := Nat.le_antisymm (hindex.1 hok) (Nat.le_of_not_lt fun h => hbad (hindex.2 h))
    exact ⟨n, t, hexec, hdid⟩

/-- What stands after a cut, but for the trace (R194). -/
theorem exec_cut_registers {i : Instr} (hi : isRequest i = true) (hlegal : legalIn s.cfg.family i = true)
    (ha : s.admitted (neededPhase i)) (hk : ∀ n, before.length < accesses (requestTrace s.cfg s.registers n i)) :
    ∃ t, exec i s = .next t ∧ t.cfg = s.cfg ∧ t.todo = s.todo ∧ t.fault = true ∧
      t.registers = requestRegisters s.cfg s.registers i before.length ∧
      t.responses = s.responses ++ [⟨.transportFailure, 0⟩] := by
  obtain ⟨n, t, hexec, hdid⟩ := exec_cut hsim hanswers hbefore hi hlegal ha hk
  obtain ⟨hcfg, htodo, -, hres⟩ := hdid.outside
  refine ⟨_, hexec, hcfg, htodo, ?_, hdid.registers, congrArg (· ++ _) hres⟩
  show t.fault = true
  rw [hdid.fault, any_isFailure_cutAt (clean_requestTrace _ _ _ _) (hk n), Bool.or_true]

end

/-- Settles O30: DISPLAY_ON's last access is the backlight's write, DISPLAY_OFF's first one is. -/
theorem displayOnAndOffCutKeepWhatWasDone : Obligations.DisplayOnAndOffCutKeepWhatWasDone := by
  intro s before rest ha hsim hanswers hbefore hk
  obtain ⟨t, hon, -, -, htfault, ht, htres⟩ := exec_cut_registers hsim hanswers hbefore (i := .displayOn) rfl rfl ha
    fun _ => hk
  obtain ⟨u, hoff, -, -, hufault, hu, hures⟩ := exec_cut_registers hsim hanswers hbefore (i := .displayOff) rfl rfl ha
    fun _ => hk
  generalize before.length = k at hk ht hu ⊢
  have hon' : t.registers = ⟨s.phase, s.em, s.dc ||| s.cfg.family.dcDisplay, if k = 6 then true else s.bl⟩ := by
    rw [ht]
    show switchAt 6 _ _ k = _
    rw [switchAt]
    rcases Nat.lt_or_ge k 6 with h | h
    · rw [if_pos h, if_neg (by omega)]
      rfl
    · rw [if_neg (by omega), if_pos (by omega)]
      rfl
  have hoff' : u.registers = ⟨s.phase, s.em, if k = 0 then s.dc else s.dc &&& ~~~ s.cfg.family.dcDisplay, false⟩ := by
    rw [hu]
    show switchAt 1 _ _ k = _
    rw [switchAt]
    exact (ite_congr (propext Nat.lt_one_iff) (fun h => by rw [if_pos h]; rfl) fun h => by rw [if_neg h]; rfl).trans
      (ite_self _)
  exact ⟨t, u, hon, hoff, congrArg Registers.dc hon', congrArg Registers.bl hon', congrArg Registers.bl hoff',
    congrArg Registers.dc hoff', htfault, hufault, congrArg Registers.em hon', congrArg Registers.em hoff', htres,
    hures⟩

/-- INIT's registers before its last access (R131, R135). -/
theorem initRegisters_of_lt {r : Registers} {k : Nat} (hk : k < 37) : initRegisters r k =
    ⟨if k < 12 then .resetPending else .functionLocked, r.em, r.dc, if k < 30 then r.bl else true⟩ := by
  grind [initRegisters]

/-- Settles O39: the registers of INIT's course at the cut; with `fault` set nothing runs any more. -/
theorem initCutLeavesADeadInstance : Obligations.InitCutLeavesADeadInstance := by
  intro s before rest ha hsim hanswers hbefore hk
  obtain ⟨t, hexec, hcfg, htodo, hfault, ht, hres⟩ := exec_cut_registers hsim hanswers hbefore (i := .init) rfl rfl ha
    fun _ => hk
  have hvalid : configValid t.cfg = true := hcfg ▸ ha.1
  generalize before.length = k at hk ht ⊢
  have hregisters : t.registers = ⟨if k < 12 then .resetPending else .functionLocked, s.em, s.dc,
      if k < 30 then s.bl else true⟩ := by
    rw [ht]
    exact initRegisters_of_lt hk
  refine ⟨t, hexec, hfault, hres, congrArg Registers.phase hregisters, congrArg Registers.bl hregisters,
    congrArg Registers.em hregisters, congrArg Registers.dc hregisters, fun i hi => exec_faulted hi hvalid hfault,
    fun hnone ws k => ?_⟩
  exact faultIsForEver { t with requests := ws } k (htodo.trans hnone) hvalid hfault

/-! ### FlagUpdate -/

/-- However a flag update ends, the registers are those it assigned before its first access (R155). -/
theorem registers_flagUpdate (reg : FlagReg) (mask : Byte) (set : Bool) {s t : State}
    (h : flagUpdate reg mask set s = .done () t ∨ flagUpdate reg mask set s = .failed t) :
    t.registers = s.registers.update reg mask set := by
  have hplays := (course_flagUpdate (c := s.cfg) (r := s.registers) reg mask set).plays s rfl rfl
  rcases h with h | h <;> rw [h] at hplays
  · obtain ⟨-, -, hdid⟩ := hplays
    exact hdid.registers
  · obtain ⟨k, -, -, -, hdid⟩ := hplays
    exact hdid.registers

/-- Settles O26: the registers of either ending, and the whole state when the send succeeds. -/
theorem flagUpdateWritesTheShadowThenSendsItWhole : Obligations.FlagUpdateWritesTheShadowThenSendsItWhole := by
  intro mask set s em' dc' hem hdc
  subst hem hdc
  refine ⟨fun t h => ?entry, fun t h => ?display, fun hok =>
    ⟨flagUpdate_ok .entry mask set hok, flagUpdate_ok .display mask set hok⟩⟩
  case entry =>
    have hr := registers_flagUpdate .entry mask set h
    exact ⟨congrArg Registers.em hr, congrArg Registers.dc hr⟩
  case display =>
    have hr := registers_flagUpdate .display mask set h
    exact ⟨congrArg Registers.dc hr, congrArg Registers.em hr⟩

/-! ### INIT that nothing stops -/

/-- A request whose accesses all succeed runs to its end. -/
theorem exec_completed {i : Instr} {s : State} (hi : isRequest i = true) (hlegal : legalIn s.cfg.family i = true)
    (ha : s.admitted (neededPhase i)) (hok : ∀ n, s.accessesOk (accesses (requestTrace s.cfg s.registers n i))) :
    ∃ n t, exec i s = .next (respond .ok (requestAnswer s.cfg n i) t) ∧
      Did (requestRegisters s.cfg s.registers i (accesses (requestTrace s.cfg s.registers n i)))
        (requestTrace s.cfg s.registers n i) s t := by
  obtain ⟨t, hexec, hended⟩ := exec_ended hi s
  cases hended with
  | refused hst =>
    rw [(admission_none_iff _ _ _).2 ⟨hlegal, ha⟩] at hst
    cases hst
  | completed _ _ _ hdid => exact ⟨_, _, hexec, hdid⟩
  | cut _ _ hk _ hbad _ => exact absurd (accessesOk_mono hk (hok _)) hbad

/-- What was done determines the state, when no byte was read. -/
theorem Did.eq {r : Registers} {tr : List Event} {s t : State} (h : Did r tr s t) (hclean : Clean tr)
    (hread : tr.any Event.isRead = false) : t = { s.advanced tr (latchAfter tr s.latch) (accesses tr) with
      phase := r.phase, em := r.em, dc := r.dc, bl := r.bl } := by
  obtain ⟨⟨hcfg, htodo, hreq, hres⟩, rfl, htrace, hlatch, hfault, hanswers, hdraws⟩ := h
  rw [hclean.any_isFailure, Bool.or_false] at hfault
  have hdraws := hdraws hread
  cases t
  subst_vars
  rfl

theorem accesses_initTrace (c : Config) (bl : Bool) (em dc : Byte) : accesses (initTrace c bl em dc) = 37 := by
  simp only [initTrace, accesses_append, accesses_handshakeTrace, accesses_commandTrace, accesses]

/-- INIT reads nothing. -/
theorem initTrace_isRead (c : Config) (bl : Bool) (em dc : Byte) : (initTrace c bl em dc).any Event.isRead = false := by
  have hcommand (bl : Bool) (v : Byte) : (commandTrace c bl v).any Event.isRead = false := rfl
  have hhandshake (n : Nibble) (wait : Nat) : (handshakeTrace c bl n wait).any Event.isRead = false := rfl
  simp only [initTrace, List.any_append, hcommand, hhandshake]
  rfl

/-- The last byte INIT writes is the low half of the clear command. -/
theorem latchAfter_initTrace (c : Config) (bl : Bool) (em dc l : Byte) :
    latchAfter (initTrace c bl em dc) l = lowByte c true c.family.clear 0x00 := by
  rw [initTrace, latchAfter_append]
  rfl

/-- Settles O37: what was done determines the state, and INIT's trace holds no read. -/
theorem initResult : Obligations.InitResult := by
  intro s ha hok
  obtain ⟨n, t, hexec, hdid⟩ := exec_completed (i := .init) rfl rfl ha fun _ =>
    (accesses_initTrace s.cfg s.bl s.em s.dc).symm ▸ hok
  have htrace : requestTrace s.cfg s.registers n .init = initTrace s.cfg s.bl s.em s.dc := rfl
  rw [htrace, accesses_initTrace] at hdid
  have heq := hdid.eq (clean_requestTrace s.cfg s.registers n .init) (initTrace_isRead ..)
  rw [accesses_initTrace, latchAfter_initTrace] at heq
  subst heq
  exact hexec

/-- Settles O38: `InitResult` with the values of R5, evaluated. -/
theorem initOfANewInstanceIsTheWorkedTrace : Obligations.InitOfANewInstanceIsTheWorkedTrace := by
  intro c ⟨hpins, _, hfamily, hinit⟩ hvalid hrows hcommand hEH hEL
  have hexec := initResult (State.newInstance c) ⟨hvalid, rfl, rfl⟩ (.inr (by simp [State.newInstance]))
  have hem : c.family.emDefault = 0x06 := by rw [hfamily]; rfl
  have hdc : c.family.dcDefault = 0x0C := by rw [hfamily]; rfl
  have hlast : lowByte c true c.family.clear 0x00 = 0x18 := by rw [lowByte, backlightBits, hpins, hfamily]; decide
  refine ⟨_, hexec, rfl, hem, hdc, rfl, rfl, hlast, rfl, rfl, ?_⟩
  show initTrace c false c.family.emDefault c.family.dcDefault = _
  rw [hem, hdc]
  simp only [initTrace, handshakeTrace, commandTrace, byteTrace, nibbleTrace, highByte, lowByte, backlightBits, hpins,
    hfamily, hinit, hcommand, hEH, hEL, if_pos hrows]
  decide

/-! ### The named flag operations -/

theorem maskedUpdate_maskedUpdate (v m : Byte) (set : Bool) :
    maskedUpdate (maskedUpdate v m set) m set = maskedUpdate v m set := by
  cases set with
  | true => exact (BitVec.or_assoc ..).trans (congrArg (v ||| ·) BitVec.or_self)
  | false => exact (BitVec.and_assoc ..).trans (congrArg (v &&& ·) BitVec.and_self)

/-- Updates under masks without a common bit commute. -/
theorem maskedUpdate_comm {m m' : Byte} (h : m &&& m' = 0) (v : Byte) (set set' : Bool) :
    maskedUpdate (maskedUpdate v m set) m' set' = maskedUpdate (maskedUpdate v m' set') m set := by
  ext k hk
  have hbit : (m[k] && m'[k]) = false := by rw [← BitVec.getElem_and, h]; simp
  cases set <;> cases set' <;> simp only [maskedUpdate, if_true, if_false, Bool.false_eq_true, BitVec.getElem_or,
    BitVec.getElem_and, BitVec.getElem_not] <;> revert hbit <;> cases m[k] <;> cases m'[k] <;> simp

/-- The flag a named flag operation changes, the value it gives it, and the light it switches (R158 to R163). -/
def flagMask (f : Family) : Instr → Byte
  | .cursorOn | .cursorOff => f.dcCursor
  | .blinkOn | .blinkOff => f.dcBlink
  | _ => f.dcDisplay

def flagValue : Instr → Bool
  | .cursorOn | .blinkOn | .displayOn => true
  | _ => false

def flagLight : Instr → Option Bool
  | .displayOn => some true
  | .displayOff => some false
  | _ => none

/-- What a named flag operation does to the registers. -/
def namedFlag (f : Family) (i : Instr) (r : Registers) : Registers :=
  { r with dc := maskedUpdate r.dc (flagMask f i) (flagValue i), bl := (flagLight i).getD r.bl }

theorem namedFlag_namedFlag (f : Family) (i : Instr) (r : Registers) :
    namedFlag f i (namedFlag f i r) = namedFlag f i r := by
  have hlight : (flagLight i).getD ((flagLight i).getD r.bl) = (flagLight i).getD r.bl := by
    cases flagLight i <;> rfl
  simp only [namedFlag, maskedUpdate_maskedUpdate, hlight]

theorem namedFlag_comm {f : Family} {i j : Instr} (hmask : flagMask f i &&& flagMask f j = 0)
    (hlight : flagLight i = none) (r : Registers) :
    namedFlag f j (namedFlag f i r) = namedFlag f i (namedFlag f j r) := by
  simp only [namedFlag, maskedUpdate_comm hmask, hlight, Option.getD_none]

abbrev NamesFlag (i : Instr) : Prop := i ∈ [Instr.cursorOn, .cursorOff, .blinkOn, .blinkOff, .displayOn, .displayOff]

/-- A named flag operation whose accesses succeed. -/
theorem exec_namedFlag {i : Instr} {s : State} {n : Nat} (hi : NamesFlag i) (ha : s.admitted .ready)
    (hok : s.accessesOk (7 + n)) : ∃ t, exec i s = .next t ∧ t.cfg = s.cfg ∧ t.admitted .ready ∧ t.accessesOk n ∧
      t.registers = namedFlag s.cfg.family i s.registers := by
  obtain ⟨hreq, hlegal, hneed, hacc, hregisters⟩ : isRequest i = true ∧ legalIn s.cfg.family i = true ∧
      neededPhase i = .ready ∧ (∀ n, accesses (requestTrace s.cfg s.registers n i) ≤ 7) ∧
      ∀ n, requestRegisters s.cfg s.registers i (accesses (requestTrace s.cfg s.registers n i)) =
        namedFlag s.cfg.family i s.registers := by
    simp only [NamesFlag, List.mem_cons, List.not_mem_nil, or_false] at hi
    rcases hi with rfl | rfl | rfl | rfl | rfl | rfl
    all_goals exact ⟨rfl, rfl, rfl, fun _ => Nat.le_of_ble_eq_true rfl, fun _ => rfl⟩
  obtain ⟨m, t, hexec, hdid⟩ := exec_completed hreq hlegal (hneed ▸ ha) fun m =>
    accessesOk_mono ((hacc m).trans (Nat.le_add_right 7 n)) hok
  have hclean := clean_requestTrace s.cfg s.registers m i
  have hregs := hdid.registers.trans (hregisters m)
  refine ⟨_, hexec, hdid.outside.1, ⟨hdid.outside.1 ▸ ha.1, ?_, (congrArg Registers.phase hregs).trans ha.2.2⟩, ?_,
    hregs⟩
  · show t.fault = false
    rw [hdid.fault, hclean.any_isFailure, ha.2.1]
    rfl
  · have hle := hacc m
    exact (hdid.accessesOk_iff (accessesOk_mono (by omega) hok) n).2 (accessesOk_mono (by omega) hok)

/-- Settles O32: what the operations do to the registers is idempotent, and commutes under masks without a common
bit when one of the two leaves the light alone. -/
theorem flagOperationsAreIdempotentAndCommute : Obligations.FlagOperationsAreIdempotentAndCommute := by
  intro i j s hdistinct ha hok hi hj
  obtain ⟨-, ⟨hdc, hdb, hcb, -⟩, -⟩ := hdistinct
  obtain ⟨a, hia, hacfg, haa, haok, har⟩ := exec_namedFlag (n := 7) hi ha hok
  obtain ⟨b, hjb, hbcfg, hba, hbok, hbr⟩ := exec_namedFlag (n := 7) hj ha hok
  obtain ⟨ab, hab, -, -, -, habr⟩ := exec_namedFlag (n := 0) hj haa haok
  obtain ⟨ba, hba, -, -, -, hbar⟩ := exec_namedFlag (n := 0) hi hba hbok
  obtain ⟨aa, haa, -, -, -, haar⟩ := exec_namedFlag (n := 0) hi haa haok
  rw [hacfg, har] at habr haar
  rw [hbcfg, hbr] at hbar
  rw [namedFlag_namedFlag, ← har] at haar
  have hcomm (hmask : flagMask s.cfg.family i &&& flagMask s.cfg.family j = 0) (hlight : flagLight i = none) :
      ab.dc = ba.dc ∧ ab.em = ba.em ∧ ab.bl = ba.bl := by
    have hr : ab.registers = ba.registers := by rw [habr, hbar, namedFlag_comm hmask hlight]
    exact ⟨congrArg Registers.dc hr, congrArg Registers.em hr, congrArg Registers.bl hr⟩
  refine ⟨a, b, ab, ba, aa, hia, hjb, hab, hba, haa, congrArg Registers.dc haar, congrArg Registers.em haar,
    congrArg Registers.bl haar, fun hcursor hother => hcomm ?_ ?_, fun hblink hdisplay => hcomm ?_ ?_⟩
  · rw [BitVec.and_comm] at hdc
    rcases hcursor with rfl | rfl <;> rcases hother with rfl | rfl | rfl | rfl <;> assumption
  · rcases hcursor with rfl | rfl <;> rfl
  · rw [BitVec.and_comm] at hdb
    rcases hblink with rfl | rfl <;> rcases hdisplay with rfl | rfl <;> assumption
  · rcases hblink with rfl | rfl <;> rfl

end Sys2Proof.Machine
end

section
/-! The statement that a request with one command send is SEND_CMD of its byte (30_encoding.md section 2), and the sums
of the timing table (70_reset_and_hazards.md section 4). -/

namespace Sys2Proof.Machine

/-! ### One command send -/

/-- Two requests that are let in and run the same procedure do the same. -/
theorem exec_eq_of_body {i j : Instr} {s s' : State} (hi : isRequest i = true) (hj : isRequest j = true)
    (hli : legalIn s.cfg.family i = true) (hlj : legalIn s'.cfg.family j = true) (ha : s.admitted (neededPhase i))
    (ha' : s'.admitted (neededPhase j)) (hbody : requestBody i s = requestBody j s') : exec i s = exec j s' := by
  rw [exec_request hi, exec_request hj, operation, operation, (admission_none_iff _ _ s).2 ⟨hli, ha⟩,
    (admission_none_iff _ _ s').2 ⟨hlj, ha'⟩, hbody]

/-- A request that is one flag update sends the new shadow on the state that holds it already (R155). -/
theorem UpdatesFlag.exec_eq_sendCmd {i : Instr} {s : State} {reg : FlagReg} {mask : Byte} {set : Bool}
    (h : UpdatesFlag s.cfg i reg mask set) (ha : s.admitted .ready) :
    Machine.exec i s = Machine.exec (.sendCmd (maskedUpdate (shadowOf s reg) mask set))
      (setShadow reg (maskedUpdate (shadowOf s reg) mask set) s) := by
  cases reg <;>
    exact exec_eq_of_body h.request rfl h.legal rfl (h.phase ▸ ha) ha ((h.body s rfl).trans rfl)

/-- SET_CURSOR is SEND_CMD of its command, but for what it answers when nothing fails. -/
theorem exec_setCursor_eq_sendCmd {row col : Byte} {r k : Nat} {s : State} (ha : s.admitted .ready)
    (hr : (r : Int) = max 0 (min row.toInt (s.cfg.rows - 1)))
    (hk : (k : Int) = max 0 (min col.toInt (s.cfg.cols - 1))) :
    ∃ t, exec (.sendCmd (cursorCommand s.cfg r k)) s = .next t ∧ exec (.setCursor row col) s = .next
      (if t.fault then t else { t with responses := s.responses ++ [⟨.ok, cursorAddress s.cfg r k⟩] }) := by
  have hcourse := sends_command (c := s.cfg) (r := s.registers) (cursorCommand s.cfg r k)
  have hsend := hcourse.plays s rfl rfl
  have hcursor := requestBody_setCursor ha.1 hr hk
  cases hrun : sendByte (cursorCommand s.cfg r k) .command s with
  | done _ t =>
    rw [hrun] at hsend
    obtain ⟨-, -, hdid⟩ := hsend
    obtain ⟨-, -, -, hres⟩ := hdid.outside
    have hfault : t.fault = false := by
      rw [hdid.fault, hcourse.clean.any_isFailure, ha.2.1]
      rfl
    refine ⟨_, exec_done (i := .sendCmd _) rfl rfl ha (returning_done 0 hrun), ?_⟩
    rw [exec_done (i := .setCursor row col) rfl rfl ha (hcursor.trans (returning_done _ hrun)),
      if_neg (by rw [respond_fault, hfault]; exact Bool.false_ne_true), ← hres]
    rfl
  | failed t =>
    rw [hrun] at hsend
    obtain ⟨k', hk', -, -, hdid⟩ := hsend
    have hfault : t.fault = true := by
      rw [hdid.fault, any_isFailure_cutAt hcourse.clean hk', Bool.or_true]
    refine ⟨_, exec_failed (i := .sendCmd _) rfl rfl ha (returning_failed 0 hrun), ?_⟩
    rw [exec_failed (i := .setCursor row col) rfl rfl ha (hcursor.trans (returning_failed _ hrun)), respond_fault,
      hfault, if_pos rfl]

/-- Settles O34: the procedures are the same; SET_CURSOR's returns the address where SEND_CMD's returns 0. -/
theorem commandOperationsSendTheConfiguredBytes : Obligations.CommandOperationsSendTheConfiguredBytes := by
  intro s f
  refine ⟨operation_congr rfl, operation_congr rfl, ?_⟩
  intro ha sendEM sendDC
  refine ⟨(updatesFlag_cursorOn s.cfg).exec_eq_sendCmd ha, (updatesFlag_cursorOff s.cfg).exec_eq_sendCmd ha,
    (updatesFlag_blinkOn s.cfg).exec_eq_sendCmd ha, (updatesFlag_blinkOff s.cfg).exec_eq_sendCmd ha,
    fun mask hmask => ?entry, fun mask hmask => ?display, ?cursor⟩
  case entry => exact ⟨(updatesFlag_flagSet (.inl ⟨rfl, hmask⟩)).exec_eq_sendCmd ha,
    (updatesFlag_flagClr (.inl ⟨rfl, hmask⟩)).exec_eq_sendCmd ha⟩
  case display => exact ⟨(updatesFlag_flagSet (.inr ⟨rfl, hmask⟩)).exec_eq_sendCmd ha,
    (updatesFlag_flagClr (.inr ⟨rfl, hmask⟩)).exec_eq_sendCmd ha⟩
  case cursor =>
    intro row col r k hr hk a cmd
    have hcmd : cursorCommand s.cfg r k = cmd := by
      simp only [cmd, a, cursorCommand]
      split_ifs <;> rfl
    exact hcmd ▸ exec_setCursor_eq_sendCmd ha hr hk

/-! ### The timing table -/

theorem waits_nibbleTrace (c : Config) (b : Byte) : waits (nibbleTrace c b) = c.tEH + c.tEL := by
  simp [nibbleTrace, waits]

theorem waits_commandTrace (c : Config) (bl : Bool) (v : Byte) :
    waits (commandTrace c bl v) = 2 * (c.tEH + c.tEL) + c.commandDelay := by
  simp only [commandTrace, byteTrace, waits_append, waits_nibbleTrace, waits]
  omega

theorem waits_dataTrace (c : Config) (bl : Bool) (v : Byte) :
    waits (dataTrace c bl v) = 2 * (c.tEH + c.tEL) + c.dataDelay := by
  simp only [dataTrace, byteTrace, waits_append, waits_nibbleTrace, waits]
  omega

theorem waits_statusTrace (c : Config) (bl : Bool) (n₀ n₁ : Byte) :
    waits (statusTrace c bl n₀ n₁) = 2 * (c.tEH + c.tEL) := by
  simp only [statusTrace, waits]
  omega

theorem waits_handshakeTrace (c : Config) (bl : Bool) (n : Nibble) (wait : Nat) :
    waits (handshakeTrace c bl n wait) = c.tEH + c.tEL + wait := by
  simp only [handshakeTrace, waits_append, waits_nibbleTrace, waits, Nat.add_zero]

theorem waits_initTrace (c : Config) (bl : Bool) (em dc : Byte) : waits (initTrace c bl em dc) =
    c.init.tPower + 4 * (c.tEH + c.tEL) + c.init.tInit1 + c.init.tInit2 + c.init.tInit3 + c.init.tInit4 +
      4 * (2 * (c.tEH + c.tEL) + c.commandDelay) := by
  simp only [initTrace, waits_append, waits_handshakeTrace, waits_commandTrace, waits]
  omega

/-- The events an instruction added are known once its outcome is. -/
theorem trace_of_exec {i : Instr} {s t u : State} {tr tr' : List Event} (h : exec i s = .next t)
    (hu : exec i s = .next u) (hknown : u.trace = s.trace ++ tr') (htr : t.trace = s.trace ++ tr) : tr = tr' := by
  obtain rfl := Host.Outcome.next.inj (hu.symm.trans h)
  exact List.append_cancel_left (htr.symm.trans hknown)

/-- Settles O49: the traces of the five operations are known, and the waits of a trace add up. -/
theorem waitsAreTheTimingTable : Obligations.WaitsAreTheTimingTable := by
  intro v s a b c d tr₁ tr₂ tr₃ tr₄ ha hok hcmd h₁ hdata h₂ haddr h₃ hline h₄
  have hok₆ := accessesOk_mono (by omega : 6 ≤ 14) hok
  obtain ⟨hgetAddr, -, -⟩ := statusReadResults s ha (accessesOk_mono (by omega) hok)
  have hnext := nextLineResult s _ ha hok rfl
  rw [trace_of_exec hcmd (exec_sendCmd v ha hok₆) rfl h₁, trace_of_exec hdata (exec_sendData v ha hok₆) rfl h₂,
    trace_of_exec haddr hgetAddr rfl h₃, trace_of_exec hline hnext rfl h₄]
  rw [waits_append, waits_commandTrace, waits_dataTrace, waits_statusTrace, waits_commandTrace]
  refine ⟨rfl, rfl, rfl, rfl, fun u t hcfg hau hoku hinit => ⟨initTrace u.cfg u.bl u.em u.dc, ?_, ?_⟩⟩
  · obtain rfl := Host.Outcome.next.inj ((initResult u hau hoku).symm.trans hinit)
    rfl
  · rw [waits_initTrace, hcfg]

end Sys2Proof.Machine
end

section
/-! The statements on the bytes a request writes: their backlight bit (45_backlight.md) and the invariant of a safe run
(10_state.md section 2, 30_encoding.md section 1). -/

namespace Sys2Proof.Machine

/-! ### The bytes of a trace -/

theorem formedBytes_append (t₁ t₂ : List Event) : formedBytes (t₁ ++ t₂) = formedBytes t₁ ++ formedBytes t₂ :=
  List.filterMap_append

theorem writtenBytes_subset_formedBytes {tr : List Event} {b : Byte} (h : b ∈ writtenBytes tr) :
    b ∈ formedBytes tr := by
  obtain ⟨e, he, hb⟩ := List.mem_filterMap.1 h
  refine List.mem_filterMap.2 ⟨e, he, ?_⟩
  cases e with
  | write v => exact hb
  | _ => cases hb

/-- There are at most as many bytes as accesses. -/
theorem length_formedBytes_le (tr : List Event) : (formedBytes tr).length ≤ accesses tr := by
  induction tr with
  | nil => exact le_rfl
  | cons e tr ih =>
    cases e with
    | write b | writeFail b => exact Nat.succ_le_succ ih
    | read v | readFail => exact Nat.le_succ_of_le ih
    | delay t => exact ih

/-- A cut trace forms the bytes of the whole one, up to that of the access that failed. -/
theorem formedBytes_cutAt {tr : List Event} {k : Nat} (hclean : Clean tr) (hk : k < accesses tr) :
    formedBytes (cutAt k tr) <+: formedBytes tr ∧ (formedBytes (cutAt k tr)).length ≤ k + 1 := by
  obtain ⟨before, e, e', after, rfl, hcut, rfl, -, hformed⟩ := cutAt_eq hclean hk
  have hsame : formedBytes [e] = formedBytes [e'] := by rw [formedBytes, formedBytes, List.filterMap, hformed]; rfl
  have hone : (formedBytes [e]).length ≤ 1 := List.length_filterMap_le ..
  have hbefore := length_formedBytes_le before
  rw [hcut, formedBytes_append, List.length_append, hsame, List.append_cons, formedBytes_append, formedBytes_append]
  rw [hsame] at hone
  exact ⟨List.prefix_append .., by omega⟩

/-- With the masks of R80, what a byte of the block shows: bit 3 is the backlight, and it is a write or of the
read-mode form (R81, R82, R84). -/
def BytesOf (bl : Bool) (tr : List Event) : Prop :=
  ∀ b ∈ formedBytes tr, b.getLsbD 3 = bl ∧ (b &&& 0x02 = 0 ∨ b &&& 0xF3 = 0xF2)

theorem bytesOf_append {bl : Bool} {t₁ t₂ : List Event} (h₁ : BytesOf bl t₁) (h₂ : BytesOf bl t₂) :
    BytesOf bl (t₁ ++ t₂) := by
  rw [BytesOf, formedBytes_append, List.forall_mem_append]
  exact ⟨h₁, h₂⟩

/-- A delay forms no byte. -/
theorem bytesOf_delay (bl : Bool) (t : Nat) : BytesOf bl [.delay t] := List.forall_mem_nil _

section
variable {c : Config} (hpins : c.pins = standardPins) (bl : Bool)
include hpins

theorem PinsSettled.bytesOf_nibbleTrace {bl : Bool} {b : Byte} (h : PinsSettled bl b) :
    BytesOf bl (nibbleTrace c b) := by
  have hbits : ∀ b : Byte, b.getLsbD 1 = false → (b &&& 0x02 = 0) ∧ ((b ||| 0x04) &&& 0x02 = 0) ∧
      (b ||| 0x04).getLsbD 3 = b.getLsbD 3 := by decide
  obtain ⟨hb, hbe, hlight⟩ := hbits b h.write
  have hen : c.pins.en = 0x04 := by rw [hpins]; rfl
  have hformed : formedBytes (nibbleTrace c b) = [b, b ||| c.pins.en, b] := rfl
  rw [BytesOf, hformed, hen]
  simp only [List.forall_mem_cons, hlight, h.backlight]
  exact ⟨⟨trivial, .inl hb⟩, ⟨trivial, .inl hbe⟩, ⟨trivial, .inl hb⟩, List.forall_mem_nil _⟩

theorem pinsSettled_backlightBits : PinsSettled bl (backlightBits c bl) := by
  rw [pinsSettled_iff, backlightBits, hpins]
  cases bl <;> decide

theorem pinsSettled_handshake (n : Nibble) : PinsSettled bl ((n.setWidth 8 <<< 4) ||| backlightBits c bl) := by
  rw [pinsSettled_iff, backlightBits, hpins]
  revert n
  cases bl <;> decide

/-- The low half of a data byte. -/
theorem pinsSettled_lowByte_rs (v : Byte) : PinsSettled bl (lowByte c bl v c.pins.rs) := by
  rw [lowByte_eq_or, hpins]
  exact pinsSettled_or_rs (pinsSettled_lowByte hpins bl v)

theorem bytesOf_commandTrace (v : Byte) : BytesOf bl (commandTrace c bl v) :=
  bytesOf_append (bytesOf_append ((pinsSettled_highByte hpins bl v).bytesOf_nibbleTrace hpins)
    ((pinsSettled_lowByte hpins bl v).bytesOf_nibbleTrace hpins)) (bytesOf_delay bl _)

theorem bytesOf_dataTrace (v : Byte) : BytesOf bl (dataTrace c bl v) := by
  have hhigh : PinsSettled bl (highByte c bl v c.pins.rs) := by
    rw [highByte_eq_or, hpins]
    exact pinsSettled_or_rs (pinsSettled_highByte hpins bl v)
  exact bytesOf_append (bytesOf_append (hhigh.bytesOf_nibbleTrace hpins)
    ((pinsSettled_lowByte_rs hpins bl v).bytesOf_nibbleTrace hpins)) (bytesOf_delay bl _)

theorem bytesOf_handshakeTrace (n : Nibble) (wait : Nat) : BytesOf bl (handshakeTrace c bl n wait) :=
  bytesOf_append ((pinsSettled_handshake hpins bl n).bytesOf_nibbleTrace hpins) (bytesOf_delay bl _)

theorem bytesOf_backlight : BytesOf bl [.write (backlightBits c bl)] := by
  rw [BytesOf, backlightBits, hpins]
  cases bl <;> decide

/-- The bytes of a status read are of the read-mode form, but for the last, which is in the write direction. -/
theorem bytesOf_statusTrace (n₀ n₁ : Byte) : BytesOf bl (statusTrace c bl n₀ n₁) := by
  have hformed : formedBytes (statusTrace c bl n₀ n₁) =
      let b := 0xF0 ||| backlightBits c bl ||| c.pins.rw
      [b, b ||| c.pins.en, b, b ||| c.pins.en, b, backlightBits c bl] := rfl
  rw [BytesOf, hformed, backlightBits, hpins]
  cases bl <;> decide

end

/-! ### The bytes of a request -/

section
variable {c : Config} (hpins : c.pins = standardPins) (r : Registers) (n : Byte × Byte)
include hpins

/-- All but DISPLAY_ON and INIT assign the backlight before their first write, if they do (R182). -/
theorem bytesOf_requestTrace {i : Instr} (hon : i ≠ .displayOn) (hinit : i ≠ .init) (k : Nat) :
    BytesOf (requestRegisters c r i k).bl (requestTrace c r n i) := by
  have hcommand := bytesOf_commandTrace (c := c) hpins
  have hstatus := bytesOf_statusTrace hpins r.bl n.1 n.2
  cases i with
  | displayOn => exact absurd rfl hon
  | init => exact absurd rfl hinit
  | sendData v => exact bytesOf_dataTrace hpins r.bl v
  | sendCmd | clear | home | setCursor | cursorOn | cursorOff | blinkOn | blinkOff => exact hcommand r.bl _
  | flagSet reg mask | flagClr reg mask =>
    have hbl (set : Bool) : (r.update (flagReg reg) mask set).bl = r.bl := by
      cases hreg : flagReg reg <;> simp [Registers.update, Registers.setShadow]
    exact (hbl _).symm ▸ hcommand r.bl _
  | getAddr | getLine | isBusy => exact hstatus
  | nextLine => exact bytesOf_append hstatus (hcommand r.bl _)
  | setBacklight v => exact bytesOf_backlight hpins _
  | displayOff =>
    have hbl : (requestRegisters c r .displayOff k).bl = false := switchAt_field Registers.bl (by rfl) (by rfl) _ k
    rw [hbl]
    exact bytesOf_append (bytesOf_backlight hpins false) (hcommand false _)
  | _ => exact List.forall_mem_nil _

/-- The bytes before INIT's thirty-first are formed with the old backlight, the others with it on. -/
theorem bytesOf_init : ∃ t₁ t₂, requestTrace c r n .init = t₁ ++ t₂ ∧ (formedBytes t₁).length = 30 ∧ BytesOf r.bl t₁ ∧
    BytesOf true t₂ := by
  have hhandshake := bytesOf_handshakeTrace hpins r.bl
  have hcommand := bytesOf_commandTrace hpins r.bl
  refine ⟨_, _, List.append_assoc _ _ _, rfl, ?_, ?_⟩
  · exact bytesOf_append (bytesOf_append (bytesOf_append (bytesOf_append (bytesOf_append (bytesOf_append (bytesOf_append
      (bytesOf_delay _ _) (hhandshake _ _)) (hhandshake _ _)) (hhandshake _ _)) (hhandshake _ _)) (hcommand _))
      (hcommand _)) (hcommand _)
  · exact bytesOf_append (bytesOf_backlight hpins true) (bytesOf_commandTrace hpins true _)

theorem bytesOf_displayOn : ∃ t₁ t₂, requestTrace c r n .displayOn = t₁ ++ t₂ ∧ (formedBytes t₁).length = 6 ∧
    BytesOf r.bl t₁ ∧ BytesOf true t₂ :=
  ⟨_, _, rfl, rfl, bytesOf_commandTrace hpins r.bl _, bytesOf_backlight hpins true⟩

end

/-- What a request writes before and after it switches the light on. -/
theorem bytes_take_drop {bl : Bool} {t₁ t₂ tr : List Event} {m : Nat} (hm : (formedBytes t₁).length = m)
    (h₁ : BytesOf bl t₁) (h₂ : BytesOf true t₂) (htr : formedBytes tr <+: formedBytes (t₁ ++ t₂)) :
    (∀ b ∈ (formedBytes tr).take m, b.getLsbD 3 = bl) ∧ ∀ b ∈ (formedBytes tr).drop m, b.getLsbD 3 = true := by
  subst hm
  rw [formedBytes_append] at htr
  refine ⟨fun b hb => (h₁ b ?_).1, fun b hb => (h₂ b ?_).1⟩
  · simpa using (htr.take _).subset hb
  · simpa using (htr.drop _).subset hb

/-- What a request has formed, however it ended, and the registers that stand. -/
theorem Ended.formed {i : Instr} {s t : State} (h : Ended i s t) : ∃ tr, t.trace = s.trace ++ tr ∧
    (tr = [] ∧ t.registers = s.registers ∨ ∃ n k, t.registers = requestRegisters s.cfg s.registers i k ∧
      formedBytes tr <+: formedBytes (requestTrace s.cfg s.registers n i) ∧ (formedBytes tr).length ≤ k + 1) := by
  cases h with
  | refused => exact ⟨[], (List.append_nil _).symm, .inl ⟨rfl, rfl⟩⟩
  | completed _ _ _ hdid =>
    exact ⟨_, hdid.trace, .inr ⟨_, _, hdid.registers, List.prefix_rfl, Nat.le_succ_of_le (length_formedBytes_le _)⟩⟩
  | cut _ _ hk _ _ hdid =>
    exact ⟨_, hdid.trace, .inr ⟨_, _, hdid.registers, formedBytes_cutAt (clean_requestTrace _ _ _ _) hk⟩⟩

theorem initRegisters_bl {r : Registers} {k : Nat} (hk : 30 ≤ k) : (initRegisters r k).bl = true := by
  unfold initRegisters
  rw [if_neg (by omega), if_neg (by omega)]
  split_ifs <;> rfl

/-- Settles O36: a request that was cut formed the first bytes of its trace, and the light was on once it had formed
one more than those before the switch. -/
theorem everyWrittenByteCarriesTheBacklight : Obligations.EveryWrittenByteCarriesTheBacklight := by
  intro i s t tr hpins hi hexec htrace
  obtain ⟨tr', htrace', hformed⟩ := (ended_of_exec hi hexec).formed
  obtain rfl := List.append_cancel_left (htrace.symm.trans htrace')
  rcases hformed with ⟨rfl, hr⟩ | ⟨n, k, hr, hprefix, hlen⟩
  · have hbl : t.bl = s.bl := congrArg Registers.bl hr
    cases i <;> simp [formedBytes, hbl]
  · have hbl : t.bl = (requestRegisters s.cfg s.registers i k).bl := congrArg Registers.bl hr
    have hlit (hon : i ≠ .displayOn) (hinit : i ≠ .init) : ∀ b ∈ formedBytes tr, b.getLsbD 3 = t.bl := fun b hb => by
      rw [hbl]
      exact (bytesOf_requestTrace hpins s.registers n hon hinit k b (hprefix.subset hb)).1
    cases i with
    | init =>
      obtain ⟨t₁, t₂, heq, hm, h₁, h₂⟩ := bytesOf_init hpins s.registers n
      obtain ⟨htake, hdrop⟩ := bytes_take_drop hm h₁ h₂ (heq ▸ hprefix)
      refine ⟨htake, fun b hb => ⟨hdrop b hb, hbl.trans (initRegisters_bl ?_)⟩⟩
      have := List.length_pos_of_mem hb
      rw [List.length_drop] at this
      omega
    | displayOn =>
      obtain ⟨t₁, t₂, heq, hm, h₁, h₂⟩ := bytesOf_displayOn hpins s.registers n
      obtain ⟨htake, hdrop⟩ := bytes_take_drop hm h₁ h₂ (heq ▸ hprefix)
      refine ⟨htake, fun b hb => ⟨hdrop b hb, hbl.trans (congrArg Registers.bl (if_neg ?_))⟩⟩
      have := List.length_pos_of_mem hb
      rw [List.length_drop] at this
      omega
    | displayOff | setBacklight => exact hlit (by simp) (by simp)
    | _ =>
      have hsame : t.bl = s.bl := by
        by_contra hne
        exact absurd (requestRegisters_bl (hbl ▸ hne)) (by simp)
      exact ⟨hsame, hsame ▸ hlit (by simp) (by simp)⟩

end Sys2Proof.Machine
end

section
/-! The invariant of a safe run (10_state.md section 2): every step keeps it. What a request does is known by its course
(`Ended`), so it is shown of what was done, once for requests that run to their end and those that are cut. -/

namespace Sys2Proof.Machine

/-! ### The hardwired bits (R22, R23) -/

/-- An update under a mask inside `m` keeps the bits outside `m`. -/
theorem maskedUpdate_and_not {mask m : Byte} (h : mask &&& ~~~ m = 0) (v : Byte) (set : Bool) :
    maskedUpdate v mask set &&& ~~~ m = v &&& ~~~ m := by
  cases set with
  | true =>
    show (v ||| mask) &&& ~~~ m = _
    rw [BitVec.and_or_distrib_right, h]
    exact BitVec.or_zero
  | false =>
    show v &&& ~~~ mask &&& ~~~ m = _
    ext k hk
    have hbit : (mask[k] && !m[k]) = false := by rw [← BitVec.getElem_not, ← BitVec.getElem_and, h]; simp
    simp only [BitVec.getElem_and, BitVec.getElem_not]
    revert hbit
    cases mask[k] <;> cases m[k] <;> simp

section
variable {c : Config} {r : Registers} {i : Instr} (hlegal : legalIn c.family i = true) (k : Nat)
include hlegal

theorem requestRegisters_emPrefix :
    (requestRegisters c r i k).em &&& ~~~ (c.family.emInc ||| c.family.emShift) =
      r.em &&& ~~~ (c.family.emInc ||| c.family.emShift) := by
  cases i with
  | init => exact congrArg (· &&& _) initRegisters_em
  | displayOn | displayOff => exact congrArg (· &&& _) (switchAt_field Registers.em (by rfl) (by rfl) _ k)
  | flagSet reg mask | flagClr reg mask =>
    rcases (legalIn_iff c.family (.flagSet reg mask)).1 hlegal with ⟨rfl, hmask⟩ | ⟨rfl, -⟩
    · exact maskedUpdate_and_not hmask r.em _
    · rfl
  | _ => rfl

theorem requestRegisters_dcPrefix :
    (requestRegisters c r i k).dc &&& ~~~ (c.family.dcDisplay ||| c.family.dcCursor ||| c.family.dcBlink) =
      r.dc &&& ~~~ (c.family.dcDisplay ||| c.family.dcCursor ||| c.family.dcBlink) := by
  have hdisplay (a b c : Byte) : a &&& ~~~ (a ||| b ||| c) = 0 := by grind
  have hcursor (a b c : Byte) : b &&& ~~~ (a ||| b ||| c) = 0 := by grind
  have hblink (a b c : Byte) : c &&& ~~~ (a ||| b ||| c) = 0 := by grind
  cases i with
  | init => exact congrArg (· &&& _) initRegisters_dc
  | cursorOn | cursorOff => exact maskedUpdate_and_not (hcursor ..) r.dc _
  | blinkOn | blinkOff => exact maskedUpdate_and_not (hblink ..) r.dc _
  | displayOn =>
    have hkeep := maskedUpdate_and_not (hdisplay c.family.dcDisplay c.family.dcCursor c.family.dcBlink) r.dc true
    exact switchAt_field (fun r => r.dc &&& ~~~ (c.family.dcDisplay ||| c.family.dcCursor ||| c.family.dcBlink)) hkeep
      hkeep _ k
  | displayOff =>
    have hkeep := maskedUpdate_and_not (hdisplay c.family.dcDisplay c.family.dcCursor c.family.dcBlink) r.dc false
    exact switchAt_field (fun r => r.dc &&& ~~~ (c.family.dcDisplay ||| c.family.dcCursor ||| c.family.dcBlink))
      (by rfl) hkeep _ k
  | flagSet reg mask | flagClr reg mask =>
    rcases (legalIn_iff c.family (.flagSet reg mask)).1 hlegal with ⟨rfl, -⟩ | ⟨rfl, hmask⟩
    · rfl
    · exact maskedUpdate_and_not hmask r.dc _
  | _ => rfl

end

/-! ### The lifecycle (R130, R135) -/

/-- A request that is let in leaves UNPOWERED behind, and READY when it runs to its end. -/
theorem requestRegisters_lifecycle {c : Config} {r : Registers} {i : Instr} (hneed : r.phase = neededPhase i) (k : Nat)
    (n : Byte × Byte) : (requestRegisters c r i k).phase ≠ .unpowered ∧
      (requestRegisters c r i (accesses (requestTrace c r n i))).phase = .ready := by
  by_cases hinit : i = .init
  · subst hinit
    refine ⟨?_, ?_⟩
    · show (initRegisters r k).phase ≠ _
      unfold initRegisters
      split_ifs <;> simp
    · show (initRegisters r (accesses (initTrace c r.bl r.em r.dc))).phase = _
      rw [accesses_initTrace]
      rfl
  · have hready : neededPhase i = .ready := by
      cases i with
      | init => exact absurd rfl hinit
      | _ => rfl
    rw [requestRegisters_phase hinit, requestRegisters_phase hinit, hneed, hready]
    exact ⟨by simp, rfl⟩

/-! ### The pins (R26) -/

/-- The last byte of a request that is let in leaves the pins settled, with the backlight that stands then. -/
theorem pinsSettled_requestTrace {c : Config} (hpins : c.pins = standardPins) (r : Registers) (n : Byte × Byte)
    {i : Instr} (hi : isRequest i = true) (hlegal : legalIn c.family i = true) :
    ∃ b, (writtenBytes (requestTrace c r n i)).getLast? = some b ∧
      PinsSettled (requestRegisters c r i (accesses (requestTrace c r n i))).bl b := by
  have hcommand (bl : Bool) (v : Byte) := pinsSettled_lowByte hpins bl v
  cases i with
  | cmdClearDisplay | cmdReturnHome | cmdEntryModeSet | cmdDisplayControl | cmdFunctionSet | cmdSetDDRAMAddress
  | tbWrite | tbReadMode | tbBacklightOnly => cases hi
  | reserved op => cases hlegal
  | init =>
    have hbl : (initRegisters r (accesses (initTrace c r.bl r.em r.dc))).bl = true := by
      rw [accesses_initTrace]
      rfl
    refine ⟨_, ?_, hbl.symm ▸ hcommand true c.family.clear⟩
    show (writtenBytes (initTrace c r.bl r.em r.dc)).getLast? = _
    rw [initTrace, writtenBytes_append, List.getLast?_append]
    rfl
  | sendData v => exact ⟨_, rfl, pinsSettled_lowByte_rs hpins r.bl v⟩
  | getAddr | getLine | isBusy => exact ⟨_, rfl, pinsSettled_backlightBits hpins r.bl⟩
  | setBacklight v => exact ⟨_, rfl, pinsSettled_backlightBits hpins _⟩
  | displayOn => exact ⟨_, rfl, pinsSettled_backlightBits hpins true⟩
  | displayOff => exact ⟨_, rfl, hcommand false _⟩
  | flagSet reg mask | flagClr reg mask =>
    have hbl (set : Bool) : (r.update (flagReg reg) mask set).bl = r.bl := by
      cases hreg : flagReg reg <;> simp [Registers.update, Registers.setShadow]
    exact ⟨_, rfl, (hbl _).symm ▸ hcommand r.bl _⟩
  | _ => exact ⟨_, rfl, hcommand r.bl _⟩

/-- Every byte a request writes is a write or of the read-mode form (R84). -/
theorem forms_requestTrace {c : Config} (hpins : c.pins = standardPins) (r : Registers) (n : Byte × Byte) (i : Instr)
    {b : Byte} (hb : b ∈ formedBytes (requestTrace c r n i)) : b &&& 0x02 = 0 ∨ b &&& 0xF3 = 0xF2 := by
  have hsplit {t₁ t₂ : List Event} (heq : requestTrace c r n i = t₁ ++ t₂) (h₁ : BytesOf r.bl t₁)
      (h₂ : BytesOf true t₂) : b &&& 0x02 = 0 ∨ b &&& 0xF3 = 0xF2 := by
    rw [heq, formedBytes_append, List.mem_append] at hb
    exact hb.elim (fun hb => (h₁ b hb).2) fun hb => (h₂ b hb).2
  by_cases hinit : i = .init
  · subst hinit
    obtain ⟨t₁, t₂, heq, -, h₁, h₂⟩ := bytesOf_init hpins r n
    exact hsplit heq h₁ h₂
  by_cases hon : i = .displayOn
  · subst hon
    obtain ⟨t₁, t₂, heq, -, h₁, h₂⟩ := bytesOf_displayOn hpins r n
    exact hsplit heq h₁ h₂
  exact (bytesOf_requestTrace hpins r n hon hinit 0 b hb).2

/-! ### What was done keeps the invariant -/

theorem betweenOperations_respond (st : Status) (v : Byte) {s : State} (h : BetweenOperations s) :
    BetweenOperations (respond st v s) :=
  ⟨h.nothingToDo, h.emPrefix, h.dcPrefix, h.beforeInit, h.lifecycle, h.configured, h.latchIsLast, h.pins, h.faultIsLast,
    h.noEarlierFailure, h.formsOnly⟩

/-- What a request that is let in may have done, as far as the invariant speaks of it. -/
structure DidSafely (r : Registers) (tr : List Event) (s : State) : Prop where
  emPrefix : r.em &&& ~~~ (s.cfg.family.emInc ||| s.cfg.family.emShift) =
    s.em &&& ~~~ (s.cfg.family.emInc ||| s.cfg.family.emShift)
  dcPrefix : r.dc &&& ~~~ (s.cfg.family.dcDisplay ||| s.cfg.family.dcCursor ||| s.cfg.family.dcBlink) =
    s.dc &&& ~~~ (s.cfg.family.dcDisplay ||| s.cfg.family.dcCursor ||| s.cfg.family.dcBlink)
  begun : r.phase ≠ .unpowered
  ready : tr.any Event.isFailure = false → r.phase = .ready
  failsLast : FailsLast tr
  settled : s.cfg.pins = standardPins → tr.any Event.isFailure = false →
    ∃ b, (writtenBytes tr).getLast? = some b ∧ PinsSettled r.bl b
  forms : s.cfg.pins = standardPins → ∀ b ∈ writtenBytes tr, b &&& 0x02 = 0 ∨ b &&& 0xF3 = 0xF2

/-- The bits of `PinsSettled` in the masks of R26. -/
theorem PinsSettled.masks {bl : Bool} {b : Byte} (h : PinsSettled bl b) :
    b &&& 0x04 = 0 ∧ b &&& 0x02 = 0 ∧ b.getLsbD 3 = bl := by
  have hbits : ∀ b : Byte, b.getLsbD 1 = false → b.getLsbD 2 = false → b &&& 0x04 = 0 ∧ b &&& 0x02 = 0 := by decide
  obtain ⟨he, hw⟩ := hbits b h.write h.enableLow
  exact ⟨he, hw, h.backlight⟩

theorem latchAfter_of_getLast {tr : List Event} {b l : Byte} (h : (writtenBytes tr).getLast? = some b) :
    latchAfter tr l = b := by
  rw [latchAfter, h, Option.getD_some]

/-- The last event of a trace that is gone on with. -/
theorem failsLast_append {t₁ t₂ : List Event} (h₁ : Clean t₁) (h₂ : FailsLast t₂) : FailsLast (t₁ ++ t₂) := by
  rcases eq_or_ne t₂ [] with rfl | hne
  · rw [List.append_nil]
    exact h₁.failsLast
  · rw [FailsLast, List.dropLast_append_of_ne_nil hne, List.forall_mem_append]
    exact ⟨h₁, h₂⟩

theorem BetweenOperations.did {s t : State} {r : Registers} {tr : List Event} (h : BetweenOperations s)
    (hfault : s.fault = false) (hvalid : configValid s.cfg = true) (hsafe : DidSafely r tr s) (hdid : Did r tr s t) :
    BetweenOperations t := by
  obtain ⟨⟨hcfg, htodo, -, -⟩, rfl, htrace, hlatch, htfault, -, -⟩ := hdid
  rw [hfault, Bool.false_or] at htfault
  have hclean : Clean s.trace := by simpa [hfault] using h.faultIsLast
  have hlast : FailsLast t.trace := htrace ▸ failsLast_append hclean hsafe.failsLast
  exact
    { nothingToDo := htodo.trans h.nothingToDo
      emPrefix := by rw [hcfg]; exact hsafe.emPrefix.trans h.emPrefix
      dcPrefix := by rw [hcfg]; exact hsafe.dcPrefix.trans h.dcPrefix
      beforeInit := fun hp => absurd hp hsafe.begun
      lifecycle := fun hf => .inr (hsafe.ready (htfault ▸ hf))
      configured := fun _ => hcfg ▸ hvalid
      latchIsLast := fun b hb => by
        rw [htrace, writtenBytes_append, List.getLast?_append] at hb
        rw [hlatch, latchAfter]
        cases hw : (writtenBytes tr).getLast? with
        | some b' => simpa [hw] using hb
        | none => exact h.latchIsLast b (by simpa [hw] using hb)
      pins := fun hpins hf _ => by
        obtain ⟨b, hb, hset⟩ := hsafe.settled (hcfg ▸ hpins) (htfault ▸ hf)
        rw [hlatch, latchAfter_of_getLast hb]
        exact hset.masks
      faultIsLast := by
        have hany : t.trace.any Event.isFailure = t.fault := by
          rw [htrace, List.any_append, hclean.any_isFailure, htfault, Bool.false_or]
        split_ifs with hf
        · exact hlast.any_isFailure_iff.1 (hany.trans hf)
        · exact fun e he => by simpa using List.any_eq_false.1 (hany.trans (Bool.not_eq_true _ ▸ hf)) e he
      noEarlierFailure := hlast
      formsOnly := fun hpins => by
        rw [htrace, writtenBytes_append, List.forall_mem_append]
        exact ⟨h.formsOnly (hcfg ▸ hpins), hsafe.forms (hcfg ▸ hpins)⟩ }

theorem Ended.keeps {i : Instr} {s t : State} (hi : isRequest i = true) (hended : Ended i s t)
    (h : BetweenOperations s) : BetweenOperations t := by
  cases hended with
  | refused => exact betweenOperations_respond _ _ h
  | @completed n t hlegal ha _ hdid =>
    obtain ⟨hvalid, hfault, hphase⟩ := ha
    refine betweenOperations_respond _ _ (h.did hfault hvalid ?_ hdid)
    obtain ⟨hbegun, hready⟩ := requestRegisters_lifecycle (c := s.cfg) (r := s.registers) hphase
      (accesses (requestTrace s.cfg s.registers n i)) n
    exact ⟨requestRegisters_emPrefix hlegal _, requestRegisters_dcPrefix hlegal _, hbegun, fun _ => hready,
      (clean_requestTrace _ _ _ _).failsLast, fun hpins _ => pinsSettled_requestTrace hpins _ _ hi hlegal,
      fun hpins b hb => forms_requestTrace hpins _ n i (writtenBytes_subset_formedBytes hb)⟩
  | @cut n k t hlegal ha hk _ _ hdid =>
    obtain ⟨hvalid, hfault, hphase⟩ := ha
    refine betweenOperations_respond _ _ (h.did hfault hvalid ?_ hdid)
    have hclean := clean_requestTrace s.cfg s.registers n i
    obtain ⟨hbegun, -⟩ := requestRegisters_lifecycle (c := s.cfg) (r := s.registers) hphase k n
    have hfails (h : (cutAt k (requestTrace s.cfg s.registers n i)).any Event.isFailure = false) : False := by
      rw [any_isFailure_cutAt hclean hk] at h
      cases h
    exact ⟨requestRegisters_emPrefix hlegal _, requestRegisters_dcPrefix hlegal _, hbegun, fun h => (hfails h).elim,
      (failsLast_cutAt hclean hk).1, fun _ h => (hfails h).elim, fun hpins b hb => forms_requestTrace hpins _ n i
        ((formedBytes_cutAt hclean hk).1.subset (writtenBytes_subset_formedBytes hb))⟩

/-- Settles O45: with nothing left to emit a step runs a request or nothing. -/
theorem stepKeepsBetweenOperations : Obligations.StepKeepsBetweenOperations := by
  intro s t h hstep
  rcases hreq : s.requests with _ | ⟨w, rest⟩
  · rw [step_idle h.nothingToDo hreq] at hstep
    exact Host.Outcome.next.inj hstep ▸ h
  · rw [step_request h.nothingToDo hreq] at hstep
    have hi := isRequest_decodeRequest w
    exact (ended_of_exec hi hstep).keeps hi ⟨h.nothingToDo, h.emPrefix, h.dcPrefix, h.beforeInit, h.lifecycle,
      h.configured, h.latchIsLast, h.pins, h.faultIsLast, h.noEarlierFailure, h.formsOnly⟩

end Sys2Proof.Machine
end

section
/-! The statement that failures are precise (60_exceptions.md section 3): the laws of Laws/Failure.lean, closed over
every request. -/

namespace Sys2Proof.Machine

/-- A list of precise procedures, one after the other. -/
theorem precise_block_cons {p : State → Run Unit} {ps : List (State → Run Unit)} (hp : Precise p)
    (hps : Precise (block ps)) : Precise (block (p :: ps)) := precise_andThen hp fun _ => hps

theorem precise_block_nil : Precise (block []) := precise_done ()

theorem precise_wait (n : Nat) : Precise (delay n) := precise_delay (fun _ => n) fun _ _ => rfl

theorem precise_handshakeStep (n : Nibble) (wait : Nat) : Precise (handshakeStep n wait) :=
  precise_pair (precise_sendNibble n .command) (precise_wait wait)

theorem precise_handshake : Precise handshake :=
  precise_reading (fun s => s.cfg.init) (fun _ _ => rfl) (p := fun p => block [delay p.tPower, setPhase .resetPending,
    handshakeStep p.nibble1 p.tInit1, handshakeStep p.nibble2 p.tInit2, handshakeStep p.nibble3 p.tInit3,
    handshakeStep p.nibble4 p.tInit4, setPhase .functionLocked]) fun _ =>
  precise_block_cons (precise_wait _) (precise_block_cons (precise_setPhase _)
    (precise_block_cons (precise_handshakeStep _ _) (precise_block_cons (precise_handshakeStep _ _)
    (precise_block_cons (precise_handshakeStep _ _) (precise_block_cons (precise_handshakeStep _ _)
    (precise_block_cons (precise_setPhase _) precise_block_nil))))))

/-- A command byte that is read from the state when it is sent. -/
theorem precise_command (v : State → Byte) (hv : ∀ s as, v { s with answers := as } = v s) :
    Precise fun s => sendByte (v s) .command s :=
  precise_reading v hv (p := fun v => sendByte v .command) fun _ => precise_sendByte _ _

theorem precise_setup : Precise setup :=
  precise_block_cons (precise_command (fun s => functionSetByte s.cfg) fun _ _ => rfl)
    (precise_block_cons (precise_command (fun s => s.em) fun _ _ => rfl)
    (precise_block_cons (precise_command (fun s => s.dc) fun _ _ => rfl)
    (precise_block_cons (precise_setBacklight true)
    (precise_block_cons (precise_command (fun s => s.cfg.family.clear) fun _ _ => rfl)
    (precise_block_cons (precise_setPhase .ready) precise_block_nil)))))

/-- A flag the configuration names. -/
theorem precise_flag (mask : Config → Byte) (set : Bool) : Precise fun s =>
    returning (flagUpdate .display (mask s.cfg) set) 0 s :=
  precise_reading (fun s => mask s.cfg) (fun _ _ => rfl) (p := fun m => returning (flagUpdate .display m set) 0)
    fun _ => precise_returning (precise_flagUpdate _ _ _) 0

/-- What is made of the status byte and the configuration. -/
theorem precise_readStatus_map (f : Config → Byte → Byte) :
    Precise fun s => (readStatus s).andThen fun st s => .done (f s.cfg st) s :=
  precise_andThen precise_readStatus fun st =>
    precise_reading (fun s => f s.cfg st) (fun _ _ => rfl) (p := fun v s => .done v s) fun v => precise_done v

theorem precise_requestBody (i : Instr) : Precise (requestBody i) := by
  have hdisplay (p : Byte → List (State → Run Unit)) (hp : ∀ m, Precise (block (p m))) :
      Precise fun s => returning (block (p s.cfg.family.dcDisplay)) 0 s :=
    precise_reading (fun s => s.cfg.family.dcDisplay) (fun _ _ => rfl) (p := fun m => returning (block (p m)) 0)
      fun m => precise_returning (hp m) 0
  cases i with
  | init => exact precise_returning (precise_pair precise_handshake precise_setup) 0
  | sendCmd | sendData => exact precise_returning (precise_sendByte _ _) 0
  | clear => exact precise_returning (precise_command (fun s => s.cfg.family.clear) fun _ _ => rfl) 0
  | home => exact precise_returning (precise_command (fun s => s.cfg.family.home) fun _ _ => rfl) 0
  | setCursor row col =>
    exact precise_reading (fun s => resolve s.cfg row.toInt col.toInt) (fun _ _ => rfl)
      (p := fun p => placeCursor p.1 p.2) fun _ => precise_placeCursor _ _
  | getAddr => exact precise_readStatus
  | getLine => exact precise_readStatus_map fun c st => BitVec.ofNat 8 (rowOf c (statusAddr st))
  | isBusy => exact precise_readStatus_map fun _ st => boolValue (statusBusy st)
  | cursorOn | cursorOff => exact precise_flag (fun c => c.family.dcCursor) _
  | blinkOn | blinkOff => exact precise_flag (fun c => c.family.dcBlink) _
  | displayOn =>
    exact hdisplay (fun m => [flagUpdate .display m true, setBacklight true]) fun m =>
      precise_pair (precise_flagUpdate .display m true) (precise_setBacklight true)
  | displayOff =>
    exact hdisplay (fun m => [setBacklight false, flagUpdate .display m false]) fun m =>
      precise_pair (precise_setBacklight false) (precise_flagUpdate .display m false)
  | setBacklight v => exact precise_returning (precise_setBacklight _) 0
  | nextLine =>
    exact precise_andThen precise_readStatus fun st =>
      precise_reading (fun s => nextRow s.cfg (rowOf s.cfg (statusAddr st))) (fun _ _ => rfl)
        (p := fun r => placeCursor r 0) fun _ => precise_placeCursor _ _
  | flagSet | flagClr => exact precise_returning (precise_flagUpdate _ _ _) 0
  | _ => exact precise_done 0

/-- Settles O44: the request's procedure is precise, and the request adds its answer only. -/
theorem transportFailureIsPrecise : Obligations.TransportFailureIsPrecise := by
  intro i s before rest hi hlegal ha hsim hbefore
  have hlegal' := (legalIn_iff _ _).2 hlegal
  obtain ⟨v, t, tr, hbody, htrace, hfault, ⟨hcfg, htodo, hreq, hres⟩, hclean, -, -, hcut⟩ :=
    precise_requestBody i s before hsim hbefore
  have ht : exec i { s with answers := before } = .next (respond .ok v t) := exec_done hi hlegal' ha hbody
  have hcut := hcut rest
  by_cases hlt : before.length < accesses tr
  · rw [if_pos hlt] at hcut
    obtain ⟨u, hubody, hutrace, hufault, ⟨hucfg, hutodo, hureq, hures⟩, huanswers, hulatch⟩ := hcut
    refine ⟨_, respond .transportFailure 0 u, tr, v, ht, htrace, hfault.trans ha.2.1, congrArg (· ++ _) hres, hclean,
      exec_failed hi hlegal' ha hubody, hucfg, hutodo, hureq, ?_⟩
    rw [if_pos hlt]
    exact ⟨hutrace, hufault, huanswers, hulatch, congrArg (· ++ _) hures⟩
  · rw [if_neg hlt] at hcut
    have hu : exec i { s with answers := before ++ .fail :: rest } =
        .next (respond .ok v { t with answers := t.answers ++ .fail :: rest }) := exec_done hi hlegal' ha hcut
    refine ⟨_, _, tr, v, ht, htrace, hfault.trans ha.2.1, congrArg (· ++ _) hres, hclean, hu, hcfg, htodo, hreq, ?_⟩
    rw [if_neg hlt]
    rfl

end Sys2Proof.Machine
end

section
/-! The statements on reset (70_reset_and_hazards.md section 1) and on the assembler's lines (30_encoding.md section 5,
44_text_output.md). -/

namespace Sys2Proof.Machine

/-! ### Reset -/

/-- Settles O1: the fields of `newInstance`; the configuration at reset is valid. -/
theorem newInstanceHoldsTheResetValues : Obligations.NewInstanceHoldsTheResetValues :=
  ⟨fun _ => ⟨rfl, rfl, rfl, rfl, rfl, rfl, rfl, rfl⟩, configAtReset, rfl, rfl⟩

/-- Settles O2: the configuration at reset holds them, and rows 0 to 3 have their entries of the ROM. -/
theorem parametersHaveTheGivenValues : Obligations.ParametersHaveTheGivenValues :=
  ⟨⟨rfl, rfl, rfl, rfl⟩, ⟨rfl, rfl, rfl, rfl⟩, ⟨rfl, rfl⟩, ⟨rfl, rfl, rfl, rfl⟩, ⟨rfl, rfl, rfl, rfl, rfl⟩,
    ⟨rfl, rfl, rfl, rfl⟩, rfl, ⟨rfl, rfl, rfl, rfl, rfl⟩, ⟨rfl, rfl, rfl, rfl⟩, ⟨rfl, rfl, rfl, rfl, rfl⟩⟩

/-- Nothing has happened after reset, so the clauses on the trace have nothing to speak of. -/
theorem betweenOperations_newInstance (c : Config) : BetweenOperations (State.newInstance c) where
  nothingToDo := rfl
  emPrefix := rfl
  dcPrefix := rfl
  beforeInit _ := ⟨rfl, rfl, rfl, rfl, rfl⟩
  lifecycle _ := .inl rfl
  configured h := absurd rfl h
  latchIsLast _ h := by cases h
  pins _ _ h := absurd rfl h
  faultIsLast := List.forall_mem_nil _
  noEarlierFailure := List.forall_mem_nil _
  formsOnly _ := List.forall_mem_nil _

/-- Settles O3: `State.reset` is a `newInstance`. -/
theorem resetIsBetweenOperations : Obligations.ResetIsBetweenOperations :=
  ⟨betweenOperations_newInstance, betweenOperations_newInstance _⟩

/-! ### Texts -/

/-- Settles O54, by induction on the text: a code above 255 anywhere refuses what stands before it too. -/
theorem textIsOneSendDataPerCharacter : Obligations.TextIsOneSendDataPerCharacter := by
  intro text
  show ((∀ c ∈ text, c ≤ 255) → expandText text = _) ∧ ((∃ c ∈ text, 255 < c) → expandText text = none)
  induction text with
  | nil => exact ⟨fun _ => rfl, fun ⟨_, h, _⟩ => absurd h List.not_mem_nil⟩
  | cons c rest ih =>
    obtain ⟨hfits, hlarge⟩ := ih
    rw [List.forall_mem_cons, expandText]
    refine ⟨fun ⟨hc, hrest⟩ => ?_, fun ⟨d, hd, hlt⟩ => ?_⟩
    · rw [if_pos hc, hfits hrest]
      rfl
    · rcases List.mem_cons.1 hd with rfl | hd
      · exact if_neg (Nat.not_le.2 hlt)
      · rw [hlarge ⟨d, hd, hlt⟩, Option.map_none, ite_self]

/-! ### Lines -/

/-- A line stands for a request and its word when the mnemonic and the operands do. -/
theorem line_of_request {op : AsmOp} {operands : List AsmOperand} {i : Instr} {w : RequestWord}
    (h : assembleRequest op operands = some i) (hw : encode i = .request w) :
    expandLine (.request op operands) = some [i] ∧ assembleLine (.request op operands) = some [w] := by
  have hline : expandLine (.request op operands) = some [i] := by rw [expandLine, h, Option.map_some]
  refine ⟨hline, ?_⟩
  rw [assembleLine, hline, Option.bind_some, List.mapM_cons, requestWord, hw]
  rfl

theorem unsignedOperand_number (v : Byte) : unsignedOperand (.number v.toNat) = some v :=
  unsignedOperand_of_value_eq_toNat rfl

theorem unsignedOperand_character (v : Byte) : unsignedOperand (.character v.toNat) = some v :=
  unsignedOperand_of_value_eq_toNat rfl

/-- A number within the bounds of its field is taken as it is (R93). -/
theorem boundedOperand_number {lo hi n : Int} (hlo : lo ≤ n) (hhi : n ≤ hi) :
    boundedOperand lo hi (.number n) = some n := if_pos ⟨hlo, hhi⟩

theorem signedOperand_number {n : Int} (hlo : -128 ≤ n) (hhi : n ≤ 127) :
    signedOperand (.number n) = some (BitVec.ofInt 8 n) := by
  rw [signedOperand, boundedOperand_number hlo hhi, Option.map_some]

/-- A request that is well formed and not reserved has a word, which decodes to it. -/
theorem decodeRequest_requestWord {i : Instr} (hi : isRequest i = true) (hwf : i.wellFormed = true) :
    ∃ w, requestWord i = some w ∧ decodeRequest w = i := by
  have hdecode := decodeOfEncodeIsTheInstruction i hwf
  unfold isRequest at hi
  unfold requestWord
  cases henc : encode i with
  | request w =>
    rw [henc, decode_request] at hdecode
    exact ⟨w, rfl, Except.ok.inj hdecode⟩
  | command b | transport b =>
    rw [henc] at hi
    cases hi

/-- The instructions a line can stand for. -/
abbrev Assembled (i : Instr) : Prop := isRequest i = true ∧ i.wellFormed = true

theorem assembled_of_assembleRequest {op : AsmOp} {operands : List AsmOperand} {i : Instr}
    (h : assembleRequest op operands = some i) : Assembled i := by
  unfold assembleRequest at h
  split at h
  case h_2 | h_3 | h_16 =>
    obtain ⟨v, -, rfl⟩ := Option.map_eq_some_iff.1 h
    exact ⟨rfl, rfl⟩
  case h_6 | h_18 | h_19 =>
    obtain ⟨v, -, h⟩ := Option.bind_eq_some_iff.1 h
    obtain ⟨v', -, rfl⟩ := Option.map_eq_some_iff.1 h
    exact ⟨rfl, rfl⟩
  case h_20 => cases h
  all_goals
    cases h
    exact ⟨rfl, rfl⟩

theorem assembled_of_expandText {text : List Nat} {is : List Instr} (h : expandText text = some is) :
    ∀ i ∈ is, Assembled i := by
  induction text generalizing is with
  | nil => cases h; exact List.forall_mem_nil _
  | cons c rest ih =>
    rw [expandText] at h
    split_ifs at h
    obtain ⟨is', his', rfl⟩ := Option.map_eq_some_iff.1 h
    exact List.forall_mem_cons.2 ⟨⟨rfl, rfl⟩, ih his'⟩

theorem assembled_of_expandLine {l : AsmLine} {is : List Instr} (h : expandLine l = some is) :
    ∀ i ∈ is, Assembled i := by
  cases l with
  | request op operands =>
    obtain ⟨i, hi, rfl⟩ := Option.map_eq_some_iff.1 h
    exact List.forall_mem_singleton.2 (assembled_of_assembleRequest hi)
  | write c =>
    obtain ⟨v, -, rfl⟩ := Option.map_eq_some_iff.1 h
    exact List.forall_mem_singleton.2 ⟨rfl, rfl⟩
  | print text => exact assembled_of_expandText h
  | println text =>
    obtain ⟨is', his', rfl⟩ := Option.map_eq_some_iff.1 h
    exact List.forall_mem_append.2 ⟨assembled_of_expandText his', List.forall_mem_singleton.2 ⟨rfl, rfl⟩⟩

/-- Words that decode one by one decode to the list. -/
theorem mapM_requestWord {is : List Instr} (h : ∀ i ∈ is, Assembled i) :
    ∃ ws, is.mapM requestWord = some ws ∧ ws.map decodeRequest = is := by
  induction is with
  | nil => exact ⟨[], rfl, rfl⟩
  | cons i is ih =>
    obtain ⟨⟨hi, hwf⟩, his⟩ := List.forall_mem_cons.1 h
    obtain ⟨w, hw, hdecode⟩ := decodeRequest_requestWord hi hwf
    obtain ⟨ws, hws, hmap⟩ := ih his
    exact ⟨w :: ws, by rw [List.mapM_cons, hw, hws]; rfl, by rw [List.map_cons, hdecode, hmap]⟩

/-- The two operand bytes of a word whose operand is 16 bits wide. -/
theorem packRequest_wide (op : Byte) (v : BitVec 16) :
    packRequest op (v.extractLsb' 8 8) (v.extractLsb' 0 8) = op ++ v := by
  conv_rhs => rw [← wide_append_halves v]
  exact BitVec.append_assoc ..

/-- Settles O55: a byte is taken as itself and a signed number within its bounds too, so each line gives its request;
whatever a line gives is well formed, so its words decode to it by `decodeOfEncodeIsTheInstruction`. -/
theorem assembledWordsDecodeToTheLine : Obligations.AssembledWordsDecodeToTheLine := by
  refine ⟨?plain, fun v => ?byte, fun row col hrow hrow' hcol hcol' => ?cursor, fun value hlo hhi => ?light,
    fun mask => ?flags, fun l is h => ?words⟩
  case plain => exact ⟨line_of_request rfl rfl, line_of_request rfl rfl, line_of_request rfl rfl,
    line_of_request rfl rfl, line_of_request rfl rfl, line_of_request rfl rfl, line_of_request rfl rfl,
    line_of_request rfl rfl, line_of_request rfl rfl, line_of_request rfl rfl, line_of_request rfl rfl,
    line_of_request rfl rfl, line_of_request rfl rfl⟩
  case byte =>
    have hnumber (f : Byte → Instr) := congrArg (Option.map f) (unsignedOperand_number v)
    have hcharacter := congrArg (Option.map Instr.sendData) (unsignedOperand_character v)
    exact ⟨line_of_request (hnumber .sendCmd) rfl, line_of_request (hnumber .sendData) rfl,
      line_of_request hcharacter rfl⟩
  case cursor =>
    refine line_of_request ?_ rfl
    rw [assembleRequest, signedOperand_number hrow hrow', signedOperand_number hcol hcol']
    rfl
  case light =>
    refine line_of_request ?_ (congrArg Code.request (packRequest_wide _ _))
    rw [assembleRequest, wideOperand, boundedOperand_number hlo hhi]
    rfl
  case flags =>
    have hmask (f : Byte → Instr) := congrArg (Option.map f) (unsignedOperand_number mask)
    exact ⟨line_of_request (hmask (.flagSet 0)) rfl, line_of_request (hmask (.flagSet 1)) rfl,
      line_of_request (hmask (.flagClr 0)) rfl, line_of_request (hmask (.flagClr 1)) rfl⟩
  case words =>
    obtain ⟨ws, hws, hmap⟩ := mapM_requestWord (assembled_of_expandLine h)
    exact ⟨ws, by rw [assembleLine, h, Option.bind_some, hws], hmap⟩

end Sys2Proof.Machine
end

section
/-! The statement on the low bits of read bytes (20_memory.md section 2): what an instruction leaves is a function of
the configuration, the registers and the status byte, and of which access fails; none of them shows those bits. -/

namespace Sys2Proof.Machine

/-! ### Answers that agree but for the low bits of bytes -/

/-- An answer without what the block discards of it (R52). -/
def Answer.upper : Answer → Answer
  | .answered v => .answered (v &&& 0xF0)
  | .fail => .fail

section
variable {s : State} {as : List Answer} (h : s.answers.map Answer.upper = as.map Answer.upper)
include h

/-- They fail at the same access. -/
theorem accessesOk_of_upper (n : Nat) : s.accessesOk n ↔ ({ s with answers := as } : State).accessesOk n := by
  have hfail (l : List Answer) : Answer.fail ∈ l ↔ Answer.fail ∈ l.map Answer.upper := by
    rw [List.mem_map]
    refine ⟨fun hl => ⟨.fail, hl, rfl⟩, fun ⟨a, ha, heq⟩ => ?_⟩
    cases a with
    | fail => exact ha
    | answered v => cases heq
  refine or_congr_right (not_congr ?_)
  rw [hfail, hfail (as.take n), List.map_take, List.map_take, h]

theorem scriptedRead_of_upper (k j : Nat) :
    s.scriptedRead k j &&& 0xF0 = ({ s with answers := as } : State).scriptedRead k j &&& 0xF0 := by
  have hk : s.answers[k]?.map Answer.upper = as[k]?.map Answer.upper := by
    rw [← List.getElem?_map, ← List.getElem?_map, h]
  unfold State.scriptedRead
  dsimp only
  generalize s.answers[k]? = a at hk ⊢
  generalize as[k]? = b at hk ⊢
  match a, b with
  | none, none => rfl
  | some .fail, some .fail => rfl
  | some (.answered v), some (.answered w) => exact Answer.answered.inj (Option.some.inj hk)
  | none, some _ | some _, none | some .fail, some (.answered _) | some (.answered _), some .fail => cases hk

/-- So the status byte they give is the same (R55, R144). -/
theorem statusByte_of_upper : s.statusByte = ({ s with answers := as } : State).statusByte := by
  have hshift : ∀ v : Byte, v >>> 4 = (v &&& 0xF0) >>> 4 := by decide
  have hlow {v w : Byte} (hvw : v &&& 0xF0 = w &&& 0xF0) : v >>> 4 = w >>> 4 := by rw [hshift, hvw, ← hshift]
  unfold State.statusByte State.statusReads
  by_cases hsim : s.cfg.sim = true
  · rw [if_pos hsim, if_pos hsim]
  · rw [if_neg hsim, if_neg hsim]
    exact congrArg₂ (· ||| ·) (scriptedRead_of_upper h 2 0) (hlow (scriptedRead_of_upper h 5 1))

end

/-! ### Traces that agree but for bytes read -/

/-- An event without the byte it read. -/
def Event.blank : Event → Event
  | .read _ => .read 0
  | e => e

theorem writtenBytes_blank (tr : List Event) : writtenBytes (tr.map Event.blank) = writtenBytes tr := by
  rw [writtenBytes, writtenBytes, List.filterMap_map]
  congr 1
  funext e
  cases e <;> rfl

theorem cutAt_blank (k : Nat) (tr : List Event) : cutAt k (tr.map Event.blank) = (cutAt k tr).map Event.blank := by
  induction tr generalizing k with
  | nil => rfl
  | cons e tr ih => cases e <;> cases k <;> simp [cutAt, Event.blank, ih]

section
variable {c : Config} {r : Registers} {i : Instr} {n n' : Byte × Byte}

/-- The bytes read reach the trace of NEXT_LINE, by the row after them, and no other. -/
theorem requestTrace_blank
    (hn : 8 < accesses (requestTrace c r n i) → assembleStatus n.1 n.2 = assembleStatus n'.1 n'.2) :
    (requestTrace c r n i).map Event.blank = (requestTrace c r n' i).map Event.blank := by
  cases i with
  | nextLine =>
    have hline : lineAfter c n = lineAfter c n' := by rw [lineAfter, hn (Nat.le_of_ble_eq_true rfl), lineAfter]
    show (_ ++ commandTrace c r.bl (cursorCommand c (lineAfter c n) 0)).map _ = _
    rw [hline]
    rfl
  | _ => rfl

/-- Before its ninth access no trace does. -/
theorem cutAt_requestTrace_blank {k : Nat} (hn : 8 ≤ k → assembleStatus n.1 n.2 = assembleStatus n'.1 n'.2) :
    (cutAt k (requestTrace c r n i)).map Event.blank = (cutAt k (requestTrace c r n' i)).map Event.blank := by
  rcases Nat.lt_or_ge k 8 with hk | hk
  · cases i with
    | nextLine =>
      show (cutAt k (statusTrace .. ++ _)).map _ = (cutAt k (statusTrace .. ++ _)).map _
      rw [cutAt_append_left hk, cutAt_append_left hk, ← cutAt_blank, ← cutAt_blank]
      rfl
    | _ =>
      rw [← cutAt_blank, ← cutAt_blank]
      rfl
  · rw [← cutAt_blank, ← cutAt_blank, requestTrace_blank fun _ => hn hk]

/-- The bytes read reach an answer by the status byte. -/
theorem requestAnswer_congr
    (hn : 8 ≤ accesses (requestTrace c r n i) → assembleStatus n.1 n.2 = assembleStatus n'.1 n'.2) :
    requestAnswer c n i = requestAnswer c n' i := by
  cases i with
  | getAddr => exact hn le_rfl
  | getLine => exact congrArg (fun st => BitVec.ofNat 8 (rowOf c (statusAddr st))) (hn le_rfl)
  | isBusy => exact congrArg (fun st => boolValue (statusBusy st)) (hn le_rfl)
  | nextLine =>
    exact congrArg (fun st => cursorAddress c (nextRow c (rowOf c (statusAddr st))) 0) (hn (Nat.le_of_ble_eq_true rfl))
  | _ => rfl

end

/-! ### Two runs -/

/-- What shows of a state: all but the answers, the reads and what was read. -/
structure SameShown (t u : State) : Prop where
  responses : t.responses = u.responses
  written : writtenBytes t.trace = writtenBytes u.trace
  registers : t.registers = u.registers
  fault : t.fault = u.fault
  latch : t.latch = u.latch

theorem writtenBytes_of_blank {tr tr' : List Event} (h : tr.map Event.blank = tr'.map Event.blank) :
    writtenBytes tr = writtenBytes tr' := by rw [← writtenBytes_blank, h, writtenBytes_blank]

theorem any_isFailure_of_blank {tr tr' : List Event} (h : tr.map Event.blank = tr'.map Event.blank) :
    tr.any Event.isFailure = tr'.any Event.isFailure := by
  have hblank (tr : List Event) : (tr.map Event.blank).any Event.isFailure = tr.any Event.isFailure := by
    rw [List.any_map]
    congr 1
    funext e
    cases e <;> rfl
  rw [← hblank, h, hblank]

/-- The same was done, but for bytes read, from states that differ in their answers only. -/
theorem Did.sameShown {r : Registers} {tr tr' : List Event} {s t u : State} {as : List Answer} (h : Did r tr s t)
    (h' : Did r tr' { s with answers := as } u) (hblank : tr.map Event.blank = tr'.map Event.blank) :
    SameShown t u where
  responses := h.outside.2.2.2.trans h'.outside.2.2.2.symm
  written := by
    rw [h.trace, h'.trace, writtenBytes_append, writtenBytes_append, writtenBytes_of_blank hblank]
  registers := h.registers.trans h'.registers.symm
  fault := by rw [h.fault, h'.fault, any_isFailure_of_blank hblank]
  latch := by rw [h.latch, h'.latch, latchAfter, latchAfter, writtenBytes_of_blank hblank]

theorem SameShown.respond {t u : State} (h : SameShown t u) (st : Status) {v v' : Byte} (hv : v = v') :
    SameShown (respond st v t) (respond st v' u) :=
  ⟨by rw [respond_responses, respond_responses, h.responses, hv], h.written, h.registers, h.fault, h.latch⟩

/-- The number of the access that fails. -/
theorem cut_unique {P : Nat → Prop} (hmono : ∀ {m n}, m ≤ n → P n → P m) {k k' : Nat} (hk : P k) (hbad : ¬ P (k + 1))
    (hk' : P k') (hbad' : ¬ P (k' + 1)) : k = k' := by
  by_contra hne
  rcases Nat.lt_or_gt_of_ne hne with hlt | hlt
  · exact hbad (hmono hlt hk')
  · exact hbad' (hmono hlt hk)

section
variable {i : Instr} {s t u : State} {as : List Answer} (h : s.answers.map Answer.upper = as.map Answer.upper)
include h

theorem Ended.sameShown (ht : Ended i s t) (hu : Ended i { s with answers := as } u) : SameShown t u := by
  have hok := accessesOk_of_upper h
  have hadmission (need : Phase) (legal : Bool) : admission need legal { s with answers := as } =
    admission need legal s := rfl
  have hstatus {n n' : Byte × Byte} {m : Nat} (hm : s.accessesOk m)
      (hn : s.accessesOk 8 → assembleStatus n.1 n.2 = s.statusByte)
      (hn' : ({ s with answers := as } : State).accessesOk 8 →
        assembleStatus n'.1 n'.2 = ({ s with answers := as } : State).statusByte) (h8 : 8 ≤ m) :
      assembleStatus n.1 n.2 = assembleStatus n'.1 n'.2 := by
    have h8 := accessesOk_mono h8 hm
    rw [hn h8, hn' ((hok 8).1 h8), statusByte_of_upper h]
  have hlen (n n' : Byte × Byte) : accesses (requestTrace s.cfg s.registers n i) =
      accesses (requestTrace s.cfg s.registers n' i) := by cases i <;> rfl
  cases ht with
  | refused hst =>
    cases hu with
    | refused hst' =>
      obtain rfl := Option.some.inj (hst.symm.trans hst')
      exact ⟨rfl, rfl, rfl, rfl, rfl⟩
    | completed hlegal ha | cut hlegal ha =>
      have hnone := (admission_none_iff _ _ s).2 ⟨hlegal, ha⟩
      rw [hnone] at hst
      cases hst
  | @completed n _ hlegal ha hokn hdid hn =>
    cases hu with
    | refused hst =>
      rw [hadmission, (admission_none_iff _ _ s).2 ⟨hlegal, ha⟩] at hst
      cases hst
    | @completed n' _ _ _ _ hdid' hn' =>
      have hagree := hstatus hokn hn hn'
      rw [hlen n n'] at hdid
      exact (hdid.sameShown hdid' (requestTrace_blank fun h => hagree h.le)).respond .ok (requestAnswer_congr hagree)
    | @cut n' k _ _ _ hk _ hbad =>
      rw [hlen n n'] at hokn
      exact absurd ((hok _).1 (accessesOk_mono hk hokn)) hbad
  | @cut n k _ hlegal ha hk hokk hbad hdid hn =>
    cases hu with
    | refused hst =>
      rw [hadmission, (admission_none_iff _ _ s).2 ⟨hlegal, ha⟩] at hst
      cases hst
    | @completed n' _ _ _ hokn' =>
      rw [hlen n n'] at hk
      exact absurd ((hok _).2 (accessesOk_mono hk hokn')) hbad
    | @cut n' k' _ _ _ _ hokk' hbad' hdid' hn' =>
      obtain rfl : k = k' := cut_unique (P := s.accessesOk) accessesOk_mono hokk hbad ((hok _).2 hokk')
        fun h => hbad' ((hok _).1 h)
      exact (hdid.sameShown hdid' (cutAt_requestTrace_blank (hstatus hokk hn hn'))).respond .transportFailure rfl

theorem TrafficEnded.sameShown (ht : TrafficEnded i s t) (hu : TrafficEnded i { s with answers := as } u) :
    SameShown t u := by
  have hok := accessesOk_of_upper h
  cases ht with
  | dead hdead =>
    cases hu with
    | dead => exact ⟨rfl, rfl, rfl, rfl, rfl⟩
    | sent halive | cut halive => exact absurd (hdead.symm.trans halive) Bool.false_ne_true
  | sent halive hokn hdid =>
    cases hu with
    | dead hdead => exact absurd (hdead.symm.trans halive) Bool.false_ne_true
    | sent _ _ hdid' => exact hdid.sameShown hdid' rfl
    | cut _ hk _ hbad => exact absurd ((hok _).1 (accessesOk_mono hk hokn)) hbad
  | @cut k _ halive hk hokk hbad hdid =>
    cases hu with
    | dead hdead => exact absurd (hdead.symm.trans halive) Bool.false_ne_true
    | sent _ hokn => exact absurd ((hok _).2 (accessesOk_mono hk hokn)) hbad
    | @cut k' _ _ _ hokk' hbad' hdid' =>
      obtain rfl : k = k' := cut_unique (P := s.accessesOk) accessesOk_mono hokk hbad ((hok _).2 hokk')
        fun h => hbad' ((hok _).1 h)
      exact hdid.sameShown hdid' rfl

end

/-- Settles O23: both runs end in the same way, and what they leave shows the status byte at most. -/
theorem lowBitsOfReadBytesAreDiscarded : Obligations.LowBitsOfReadBytesAreDiscarded := by
  intro i s as has
  have hupper : s.answers.map Answer.upper = as.map Answer.upper := by
    rw [← List.forall₂_eq_eq_eq, List.forall₂_map_left_iff, List.forall₂_map_right_iff]
    refine has.imp fun a b hab => ?_
    match a, b with
    | .fail, .fail => rfl
    | .answered v, .answered w => exact congrArg Answer.answered hab
    | .fail, .answered _ | .answered _, .fail => exact hab.elim
  obtain ⟨t, u, ht, hu, hsame⟩ : ∃ t u, exec i s = .next t ∧ exec i { s with answers := as } = .next u ∧
      SameShown t u := by
    cases hi : isRequest i with
    | true =>
      obtain ⟨t, ht, hendedt⟩ := exec_ended hi s
      obtain ⟨u, hu, hendedu⟩ := exec_ended hi { s with answers := as }
      exact ⟨t, u, ht, hu, hendedt.sameShown hupper hendedu⟩
    | false =>
      obtain ⟨t, ht, hendedt⟩ := exec_traffic_ended hi s
      obtain ⟨u, hu, hendedu⟩ := exec_traffic_ended hi { s with answers := as }
      exact ⟨t, u, ht, hu, hendedt.sameShown hupper hendedu⟩
  exact ⟨t, u, ht, hu, hsame.responses, hsame.written, congrArg Registers.phase hsame.registers,
    congrArg Registers.em hsame.registers, congrArg Registers.dc hsame.registers, congrArg Registers.bl hsame.registers,
    hsame.fault, hsame.latch⟩

end Sys2Proof.Machine
end
